-- ==== Sys2Proof/Word.lean ====
section
/-! DEFINITION. The word types of the block (spec/00_scope.md R8: `u8`, `u32`, `u64`, all unsigned). -/

namespace Sys2Proof

/-- A `u8` (R8). -/
abbrev Byte := BitVec 8

/-- A `u32` (R8); a "word" or "chunk" of the glossary (R10). -/
abbrev Word := BitVec 32

end Sys2Proof
end

