-- ==== Sys2Proof/Syntax.lean ====
section
/-! DEFINITION. The instructions: one constructor per row of spec/opcode_table.json, in the table's order. -/

namespace Sys2Proof

/-- What the block executes. The eleven host commands (spec/30_encoding.md R81) carry no operand of their own: they
read DATA_IN and SRC_IN from the state. The two LZSS tokens (R75, R76) are the in-band instruction stream LZ_PULL
and DECODE fetch. The four compression codes (R73) are what DECODE fetches from a container's header. -/
inductive Instr where
  | prngSeed
  | prngNext
  | deobWord
  | deobByte
  | ckClear
  | ckByte
  | ckWord
  | ckRead
  | lzInit
  | lzPull
  | decode
  /-- `LIT b` -/
  | lit (b : Byte)
  /-- `COPY`: the absolute window address `offset` and the 4-bit `length_field` (the length is two more). -/
  | copy (offset : BitVec 12) (lengthField : BitVec 4)
  | compUncompressed
  | compRle
  | compLzss
  /-- Every code but 0, 1 and 2 (`Instr.wellFormed`). -/
  | compUnknown (code : Word)
  deriving DecidableEq, Repr

/-- An LZSS token (R74): what `Instr.lit` and `Instr.copy` are, as a type of their own. -/
inductive Token where
  | lit (b : Byte)
  | copy (offset : BitVec 12) (lengthField : BitVec 4)
  deriving DecidableEq, Repr

/-- What a compression code means (R73, and `Code(v)` of spec/44_orchestrator.md R180). -/
inductive Compression where
  | uncompressed
  | rle
  | lzss
  | unknown (code : Word)
  deriving DecidableEq, Repr

/-- The instruction a token is. -/
def Token.instr : Token → Instr
  | .lit b => .lit b
  | .copy offset lengthField => .copy offset lengthField

/-- The instruction a compression code is. -/
def Compression.instr : Compression → Instr
  | .uncompressed => .compUncompressed
  | .rle => .compRle
  | .lzss => .compLzss
  | .unknown code => .compUnknown code

/-- The encoding classes that hold instructions (R70; the container, R70's remaining class, is data). -/
inductive EncClass where
  | hostCommand
  | token
  | headerCode
  deriving DecidableEq, Repr

/-- The class an instruction is encoded in (the table's "format" column). -/
def Instr.encClass : Instr → EncClass
  | .prngSeed | .prngNext | .deobWord | .deobByte | .ckClear | .ckByte | .ckWord | .ckRead
  | .lzInit | .lzPull | .decode => .hostCommand
  | .lit _ | .copy _ _ => .token
  | .compUncompressed | .compRle | .compLzss | .compUnknown _ => .headerCode

end Sys2Proof
end

