-- ==== Sys2Proof/WellFormed.lean ====
section
/-! DEFINITION. Which terms of `Instr` an encoding can denote. -/

namespace Sys2Proof

/-- spec/30_encoding.md R73: COMP_UNKNOWN stands for the codes `0x0000_0003 … 0xFFFF_FFFF`. Every other operand's
type is exactly the range its field has (R75, R76, R77), so nothing else is checked. -/
def Instr.wellFormed : Instr → Bool
  | .compUnknown code => decide (3 ≤ code.toNat)
  | _ => true

end Sys2Proof
end

