-- ==== Sys2Proof/Decode.lean ====
section
/-! DEFINITION. Byte and bit order, the decoder of each encoding class, total and rejecting by name, and the encoder
(spec/20_memory.md R51 to R54, spec/30_encoding.md R70 to R82). -/

namespace Sys2Proof

/-! ### Byte order and bit fields (R8, R9, R51) -/

/-- `low8(v)` (R8). -/
def low8 (v : Word) : Byte := v.extractLsb' 0 8

/-- `zext32(b)` (R8). -/
def zext32 (b : Byte) : Word := b.setWidth 32

/-- Byte `k` of a word, byte 0 the least significant. -/
def wordByte (v : Word) (k : Nat) : Byte := v.extractLsb' (8 * k) 8

/-- The little-endian word of four bytes, the first in bits [7:0] (R51). -/
def le32Of (b0 b1 b2 b3 : Byte) : Word :=
  zext32 b0 ||| zext32 b1 <<< 8 ||| zext32 b2 <<< 16 ||| zext32 b3 <<< 24

/-- `le32(s, o)` (R9). The spec calls it only where the four bytes exist; a byte that does not exist counts as 0. -/
def le32 (s : List Byte) (o : Nat) : Word :=
  le32Of (s.getD o 0) (s.getD (o + 1) 0) (s.getD (o + 2) 0) (s.getD (o + 3) 0)

/-- `bytes_le(v)` (R9). -/
def bytesLe (v : Word) : List Byte := [wordByte v 0, wordByte v 1, wordByte v 2, wordByte v 3]

/-! ### The LZSS bit stream (R53, R54) -/

/-- Stream bit `k` of `src` (R53): bit `7 − (k mod 8)` of byte `k div 8`, if the stream has it. -/
def streamBit (src : List Byte) (k : Nat) : Option Bool :=
  match src[k / 8]? with
  | some b => some (b.getLsbD (7 - k % 8))
  | none => none

/-- `ReadBits(n)` from stream position `pos` with `v` read so far, the first bit read the most significant
(R54; spec/43_lzss.md R151). `none`: the stream ends first. -/
def readBitsFrom (src : List Byte) : Nat → Nat → Nat → Option Nat
  | 0, _, v => some v
  | n + 1, pos, v =>
    match streamBit src pos with
    | some bit => readBitsFrom src n (pos + 1) (2 * v + bit.toNat)
    | none => none

/-- `ReadBits(n)` from stream position `pos`. -/
def readBits (src : List Byte) (n pos : Nat) : Option Nat := readBitsFrom src n pos 0

/-- The bits of a byte in stream order (R53). -/
def byteBits (b : Byte) : List Bool :=
  [b.getLsbD 7, b.getLsbD 6, b.getLsbD 5, b.getLsbD 4, b.getLsbD 3, b.getLsbD 2, b.getLsbD 1, b.getLsbD 0]

/-- The bits of a byte sequence in stream order (R53). -/
def bytesBits (s : List Byte) : List Bool := s.flatMap byteBits

/-- The byte eight stream bits make (R53). -/
def byteOfBits (b7 b6 b5 b4 b3 b2 b1 b0 : Bool) : Byte :=
  BitVec.ofNat 8 (128 * b7.toNat + 64 * b6.toNat + 32 * b5.toNat + 16 * b4.toNat
    + 8 * b3.toNat + 4 * b2.toNat + 2 * b1.toNat + b0.toNat)

/-- A bit string as bytes, padded with 0 bits to a whole number of bytes (R84). -/
def packBits : List Bool → List Byte
  | [] => []
  | [a] => [byteOfBits a false false false false false false false]
  | [a, b] => [byteOfBits a b false false false false false false]
  | [a, b, c] => [byteOfBits a b c false false false false false]
  | [a, b, c, d] => [byteOfBits a b c d false false false false]
  | [a, b, c, d, e] => [byteOfBits a b c d e false false false]
  | [a, b, c, d, e, f] => [byteOfBits a b c d e f false false]
  | [a, b, c, d, e, f, g] => [byteOfBits a b c d e f g false]
  | a :: b :: c :: d :: e :: f :: g :: h :: rest => byteOfBits a b c d e f g h :: packBits rest

/-- The low `n` bits of `v`, most significant first (R54). -/
def msbBits : Nat → Nat → List Bool
  | 0, _ => []
  | n + 1, v => v.testBit n :: msbBits n v

/-! ### Decoding -/

/-- Why a bit pattern is no instruction. -/
inductive Reject where
  /-- A CMD word with a nonzero bit in [31:4] (R82). -/
  | reservedBitsSet
  /-- A CMD word whose `OP` is 0x0 or 0xC to 0xF (R82). -/
  | reservedOpcode
  /-- The bytes or bits end before the instruction does. -/
  | truncated
  deriving DecidableEq, Repr

/-- One row of the opcode map: every CMD word is decoded by an exact 32-bit compare (R81). -/
structure CommandRow where
  word : Word
  instr : Instr
  deriving DecidableEq, Repr

/-- The opcode map (R81). -/
def commandRows : List CommandRow :=
  [⟨0x00000001, .prngSeed⟩, ⟨0x00000002, .prngNext⟩, ⟨0x00000003, .deobWord⟩, ⟨0x00000004, .deobByte⟩,
   ⟨0x00000005, .ckClear⟩, ⟨0x00000006, .ckByte⟩, ⟨0x00000007, .ckWord⟩, ⟨0x00000008, .ckRead⟩,
   ⟨0x00000009, .lzInit⟩, ⟨0x0000000A, .lzPull⟩, ⟨0x0000000B, .decode⟩]

/-- The field `OP = CMD[3:0]` (spec/10_state.md R35). -/
def cmdOp (w : Word) : BitVec 4 := w.extractLsb' 0 4

/-- The reserved field `CMD[31:4]`, which must be 0 (R35). -/
def cmdReserved (w : Word) : BitVec 28 := w.extractLsb' 4 28

/-- A CMD word's command (R81), or why it is illegal (R82). -/
def decodeCommand (w : Word) : Except Reject Instr :=
  match commandRows.find? (fun r => r.word == w) with
  | some r => .ok r.instr
  | none => if cmdReserved w = 0 then .error .reservedOpcode else .error .reservedBitsSet

/-- What a header's compression code means, compared as a whole (R73). -/
def compressionOf (code : Word) : Compression :=
  if code = 0 then .uncompressed
  else if code = 1 then .rle
  else if code = 2 then .lzss
  else .unknown code

/-- The token that starts at stream position `pos` (R74 to R77). Its length is set by its first bit alone, and every
pattern of that length is a token, so the only failure is the stream's end. -/
def decodeToken (src : List Byte) (pos : Nat) : Except Reject Token :=
  match streamBit src pos with
  | none => .error .truncated
  | some true =>
    match readBits src 8 (pos + 1) with
    | some b => .ok (.lit (BitVec.ofNat 8 b))
    | none => .error .truncated
  | some false =>
    match readBits src 12 (pos + 1), readBits src 4 (pos + 13) with
    | some offset, some lengthField => .ok (.copy (BitVec.ofNat 12 offset) (BitVec.ofNat 4 lengthField))
    | _, _ => .error .truncated

/-- A token's length in stream bits (R75, R76). -/
def tokenWidth : Token → Nat
  | .lit _ => 9
  | .copy _ _ => 17

/-- The decoder on bytes, for each class: a CMD word and a compression code are little-endian words (R51), a token
starts at stream bit 0. -/
def decode (c : EncClass) (bytes : List Byte) : Except Reject Instr :=
  match c with
  | .hostCommand => if bytes.length < 4 then .error .truncated else decodeCommand (le32 bytes 0)
  | .headerCode => if bytes.length < 4 then .error .truncated else .ok (compressionOf (le32 bytes 0)).instr
  | .token => (decodeToken bytes 0).map Token.instr

/-! ### Encoding -/

/-- A token's bits in stream order (R75, R76, R84). -/
def tokenBits : Token → List Bool
  | .lit b => true :: msbBits 8 b.toNat
  | .copy offset lengthField => false :: (msbBits 12 offset.toNat ++ msbBits 4 lengthField.toNat)

/-- An instruction's pattern, as the number the table reads it as (R73, R75, R76, R81). -/
def encodeNumber : Instr → Nat
  | .prngSeed => 0x1
  | .prngNext => 0x2
  | .deobWord => 0x3
  | .deobByte => 0x4
  | .ckClear => 0x5
  | .ckByte => 0x6
  | .ckWord => 0x7
  | .ckRead => 0x8
  | .lzInit => 0x9
  | .lzPull => 0xA
  | .decode => 0xB
  | .lit b => 0x100 + b.toNat
  | .copy offset lengthField => 16 * offset.toNat + lengthField.toNat
  | .compUncompressed => 0
  | .compRle => 1
  | .compLzss => 2
  | .compUnknown code => code.toNat

/-- The number of bits in that pattern (R70). -/
def encodeWidth : Instr → Nat
  | .lit _ => 9
  | .copy _ _ => 17
  | _ => 32

/-- An instruction's bytes: a little-endian word (R51), or a token's bits from bit 7 of the first byte on, padded
with 0 bits (R84). -/
def encode (i : Instr) : List Byte :=
  match i.encClass with
  | .token => packBits (msbBits (encodeWidth i) (encodeNumber i))
  | .hostCommand | .headerCode => bytesLe (BitVec.ofNat 32 (encodeNumber i))

/-! ### The numbering of spec/opcode_table.json -/

/-- The class and bytes of the instruction whose bits are `w` in the table's numbering. A number of 9 to 16 bits is a
LIT token's 9 bits and one of 17 to 24 bits a COPY token's 17, read MSB-first as R75 and R76 read them. A 32-bit number
is a CMD word, or a compression code where it is no command's word: the table numbers both classes from 0, and the
number alone does not say which is meant (notes/assumptions/10.md). -/
def tableEncoding (nbits w : Nat) : Option (EncClass × List Byte) :=
  if 9 ≤ nbits ∧ nbits ≤ 16 then
    if w < 2 ^ 9 ∧ w.testBit 8 then some (.token, packBits (msbBits 9 w)) else none
  else if 17 ≤ nbits ∧ nbits ≤ 24 then
    if w < 2 ^ 16 then some (.token, packBits (msbBits 17 w)) else none
  else if 25 ≤ nbits ∧ nbits ≤ 32 then
    if w < 2 ^ 32 then
      match decodeCommand (BitVec.ofNat 32 w) with
      | .ok _ => some (.hostCommand, bytesLe (BitVec.ofNat 32 w))
      | .error _ => some (.headerCode, bytesLe (BitVec.ofNat 32 w))
    else none
  else none

/-- The instruction the decoder reads from those bits. -/
def decodeTableWord (nbits w : Nat) : Option Instr :=
  match tableEncoding nbits w with
  | some (c, bytes) =>
    match decode c bytes with
    | .ok i => some i
    | .error _ => none
  | none => none

end Sys2Proof
end

