-- ==== Sys2Proof/Config.lean ====
section
/-! DEFINITION. The block's parameters: the ones the spec fixes (spec/00_scope.md R6) and the two it leaves open,
which a model takes as arguments (R7). -/

namespace Sys2Proof

/-- The implementation parameters the spec leaves open (R7, D13), with R7's constraint on them carried as proofs.
A value of this type stands in the machine's state, where no step changes it, so a statement about every state is a
statement about every choice of the two. -/
structure Config where
  /-- `MAX_IN_LEN`: the longest SRC_IN sequence LZ_INIT and DECODE accept. -/
  maxInLen : Nat
  /-- `OUT_CAP`: the largest output byte count DECODE can hold (R7's `OUT_CAP ≥ 0` is the type's). -/
  outCap : Nat
  maxInLen_lo : 21 ≤ maxInLen
  maxInLen_hi : maxInLen ≤ 2 ^ 32 + 19
  deriving DecidableEq, Repr

/-- DESIGN CHOICE (notes/assumptions/7.md, unsafe for claims about a run from reset): the parameters the reset state carries are the most permissive
R7 allows, so that no input R7 lets any implementation accept is refused. -/
def Config.widest : Config where
  maxInLen := 2 ^ 32 + 19
  outCap := 2 ^ 32 - 1
  maxInLen_lo := by decide
  maxInLen_hi := by decide

/-- `N_T`: the PRNG table's length in words (R6). -/
abbrev tableSize : Nat := 250

/-- `N_W`: the LZSS window's size in bytes (R6). -/
abbrev windowSize : Nat := 4096

/-- Length of the container header, four little-endian `u32` (R6). -/
abbrev headerLength : Nat := 16

/-- A container of this many bytes or fewer is rejected (R6, R182). -/
abbrev rejectedLength : Nat := 20

end Sys2Proof
end

