-- ==== Sys2Proof/Machine/State.lean ====
section
/-! DEFINITION. The machine's state, grouped by the unit that owns it (spec/10_state.md R20), the reasons a step can
stop, and the state after reset (spec/70_reset_and_hazards.md R230). -/

namespace Sys2Proof.Machine

open Sys2Proof

/-- SeededPRNG (R21 to R23). The cursors' type holds exactly R22's 0..249 (notes/assumptions/14.md, safe). -/
structure Prng where
  /-- `T[0..249]` (R21). -/
  table : Vector Word tableSize
  i : Fin tableSize
  j : Fin tableSize
  seeded : Bool
  deriving DecidableEq, Repr

/-- Checksum (R25 to R27). -/
structure Checksum where
  sum : Word
  odd : Bool
  pend : Vector Byte 3
  pendN : BitVec 2
  deriving DecidableEq, Repr

/-- LZSS decompressor (R28 to R32). -/
structure Lzss where
  /-- `W[0..4095]` (R28), a canonical list of its nonzero bytes (`Mem.wf`). -/
  window : List Host.Cell
  wp : BitVec 12
  rc : BitVec 12
  /-- A 5-bit register holding 0..17; 0: no copy is pending (R30). -/
  rem : BitVec 5
  src : List Byte
  /-- Unbounded, as R31 says of the model. -/
  bitpos : Nat
  limit : Word
  outCount : Word
  deriving DecidableEq, Repr

/-- What the host can do to the block (R34, R80, R230; notes/assumptions/1.md). -/
inductive HostEvent where
  /-- Write a 32-bit value at a byte offset of the register map; at 0x00 it starts a command. -/
  | write (offset : BitVec 8) (value : Word)
  /-- Read the register at a byte offset. -/
  | read (offset : BitVec 8)
  /-- Place a byte sequence on the port SRC_IN. -/
  | present (bytes : List Byte)
  /-- Assert reset. -/
  | reset
  deriving DecidableEq, Repr

/-- The whole machine. -/
structure State where
  /-- `MAX_IN_LEN` and `OUT_CAP`, which R7 has the model take as arguments; no step changes them. -/
  cfg : Config
  prng : Prng
  ck : Checksum
  lz : Lzss
  dataIn : Word
  result : Word
  /-- STATUS.CODE (R36); the register's bits [31:8] are hardwired 0, so they are in no field. -/
  statusCode : BitVec 8
  errInfo : Word
  /-- The port SRC_IN. -/
  srcIn : List Byte
  /-- The port OUT: the sequence the last DECODE delivered. -/
  out : List Byte
  /-- The model's own field (notes/assumptions/6.md): the value the host's last register read returned. -/
  hostRead : Word
  /-- The model's own field (notes/assumptions/1.md): the host's accesses still to come, the next one first. -/
  host : List HostEvent
  deriving DecidableEq, Repr

/-- The error kinds (spec/60_exceptions.md R200). Raising one is a next state, not a fault (R202, R207). -/
inductive ErrKind where
  | contentTooSmall
  /-- Alias ObfuscateFileTooSmall (90_conflicts.md C2); no command can raise it (R214). -/
  | inputTooSmall
  | deobfuscateChecksumNotMatch
  | decompressChecksumNonMatch
  | compressionNotSupported
  | invalidCompressionType
  | prematureEnd
  | notSeeded
  | illegalCommand
  deriving DecidableEq, Repr

/-- An error kind with its diagnostic word: the operands of `raise Err(kind, info)` (R202). -/
structure Err where
  kind : ErrKind
  info : Word
  deriving DecidableEq, Repr

/-- Why the machine stops. Every error the spec names is a status, so this is the model's own. -/
inductive Fault where
  /-- Raised by `hostStep`, at a host access whose offset lies inside a register of R34's map but is not the register's
  own offset: the spec gives no such access (notes/assumptions/13.md). Safe: the model stops. -/
  | noRegisterAt (offset : BitVec 8)
  deriving DecidableEq, Repr

/-- Why a command has no outcome in the model. -/
inductive Refusal where
  /-- Raised by `exec` for an instruction with no meaning yet (none). Safe. -/
  | notModelled (mnemonic : String)
  /-- Raised by LZ_INIT, DECODE and the compression codes: SRC_IN is longer than `MAX_IN_LEN`. R213 asks for the
  refusal. Safe. -/
  | inputTooLong
  /-- Raised by DECODE and the codes COMP_UNCOMPRESSED and COMP_LZSS: the output would be longer than `OUT_CAP`. R213
  asks for the refusal. Safe. -/
  | outputTooLong
  deriving DecidableEq, Repr

/-- What a step or an instruction answers. -/
abbrev Result := Host.Outcome State Fault Refusal

/-- The PRNG after reset: unseeded (R22, R23). DESIGN CHOICE (notes/assumptions/3.md, unsafe): the spec leaves the
table unspecified; the model names all words 0. -/
def Prng.reset : Prng where
  table := Vector.replicate tableSize 0
  i := 0
  j := 103
  seeded := false

/-- The checksum unit after reset (R25 to R27). -/
def Checksum.reset : Checksum where
  sum := 0
  odd := false
  pend := Vector.replicate 3 0
  pendN := 0

/-- The decompressor after reset (R28 to R32): the state `LZ_INIT 0, []` leaves (R230). -/
def Lzss.reset : Lzss where
  window := []
  wp := 1
  rc := 0
  rem := 0
  src := []
  bitpos := 0
  limit := 0
  outCount := 0

/-- The machine after reset (R230), for given parameters. DESIGN CHOICE (notes/assumptions/4.md, 5.md, 6.md, 1.md,
unsafe): the ports SRC_IN and OUT, for which the spec states no reset value, are empty, and so are the model's own
`host` and `hostRead`. -/
def State.resetWith (cfg : Config) : State where
  cfg := cfg
  prng := Prng.reset
  ck := Checksum.reset
  lz := Lzss.reset
  dataIn := 0
  result := 0
  statusCode := 0
  errInfo := 0
  srcIn := []
  out := []
  hostRead := 0
  host := []

/-- The machine after reset, with the parameters of notes/assumptions/7.md. -/
def State.reset : State := State.resetWith Config.widest

end Sys2Proof.Machine
end

