-- ==== Sys2Proof/Machine/Ops.lean ====
section
/-! DEFINITION. The named operations over the state: the window's memory, the units' replacement, the three registers
every command writes, and raising an error, the block's one kind of exception (spec/60_exceptions.md R202). There is
no return from one: no handler is entered (R207, R208). -/

namespace Sys2Proof.Machine

open Sys2Proof

/-! ### The window's memory (spec/10_state.md R28, spec/20_memory.md R58, R59, R63) -/

/-- What a window byte no entry lists reads as: the value LZ_INIT and reset give every byte (R28). -/
def Mem.unlisted : Byte := 0

/-- The byte at an address. -/
def Mem.read : List Host.Cell → Nat → Byte
  | [], _ => Mem.unlisted
  | (k, b) :: m, a => if k = a then b else Mem.read m a

/-- Put a byte at an address, keeping the canonical form: a byte equal to `Mem.unlisted` is not listed. -/
def Mem.write : List Host.Cell → Nat → Byte → List Host.Cell
  | [], a, v => if v = Mem.unlisted then [] else [(a, v)]
  | (k, b) :: m, a, v =>
    if a < k then (if v = Mem.unlisted then (k, b) :: m else (a, v) :: (k, b) :: m)
    else if a = k then (if v = Mem.unlisted then m else (a, v) :: m)
    else (k, b) :: Mem.write m a v

/-- The canonical form of a memory whose addresses are at least `lo`: addresses strictly rising and inside the window,
no byte equal to `Mem.unlisted`. -/
def Mem.wfFrom : Nat → List Host.Cell → Bool
  | _, [] => true
  | lo, (k, b) :: m => decide (lo ≤ k) && decide (k < windowSize) && decide (b ≠ Mem.unlisted) && Mem.wfFrom (k + 1) m

/-- The canonical form. -/
def Mem.wf (m : List Host.Cell) : Bool := Mem.wfFrom 0 m

/-- `W[a]` (R9, R28). -/
def windowByte (u : Lzss) (a : BitVec 12) : Byte := Mem.read u.window a.toNat

/-! ### Replacing one unit's state -/

def setPrng (p : Prng) (s : State) : State := { s with prng := p }

def setChecksum (c : Checksum) (s : State) : State := { s with ck := c }

def setLzss (u : Lzss) (s : State) : State := { s with lz := u }

/-- Put a sequence on the port OUT (R34). -/
def setOut (bytes : List Byte) (s : State) : State := { s with out := bytes }

/-! ### The registers every command writes (R36, R37) -/

/-- Write STATUS, RESULT and ERR_INFO. -/
def report (code : BitVec 8) (result info : Word) (s : State) : State :=
  { s with statusCode := code, result := result, errInfo := info }

end Sys2Proof.Machine
end

