-- ==== Sys2Proof/Machine/Operands.lean ====
section
/-! DEFINITION. The operand forms of the host commands (spec/30_encoding.md R80, R81, R83). A command reads only the
DATA_IN bits its form names. -/

namespace Sys2Proof.Machine

open Sys2Proof

/-- `DATA_IN[31:0]`: a seed, a group, a chunk or a limit. -/
def operandWord (s : State) : Word := s.dataIn

/-- `DATA_IN[7:0]`: a byte; `DATA_IN[31:8]` is ignored (R83). -/
def operandByte (s : State) : Byte := low8 s.dataIn

/-- The byte sequence on SRC_IN, taken as a value (spec/20_memory.md R68). -/
def operandBytes (s : State) : List Byte := s.srcIn

end Sys2Proof.Machine
end

