-- ==== Sys2Proof/Machine/Flags.lean ====
section
/-! DEFINITION. The status codes (spec/60_exceptions.md R200 to R202) and the two 1-bit flags (spec/10_state.md R39). -/

namespace Sys2Proof.Machine

open Sys2Proof

/-! ### STATUS.CODE -/

/-- An error kind's STATUS.CODE (R200). -/
def errCode : ErrKind → BitVec 8
  | .contentTooSmall => 0x01
  | .inputTooSmall => 0x02
  | .deobfuscateChecksumNotMatch => 0x03
  | .decompressChecksumNonMatch => 0x04
  | .compressionNotSupported => 0x05
  | .invalidCompressionType => 0x06
  | .prematureEnd => 0x07
  | .notSeeded => 0x08
  | .illegalCommand => 0x09

/-- OK (R201). -/
def codeOk : BitVec 8 := 0x00

/-- SizeReached: the normal end of a stream, not an error (R201). -/
def codeSizeReached : BitVec 8 := 0x0A

/-- A command completes with a value. -/
def complete (value : Word) (s : State) : State := report codeOk value 0 s

/-- `raise Err(kind, info)` (R202): the whole of taking an exception. No unit state changes (R203), nothing is saved and
no handler is entered (R207). -/
def raiseErr (kind : ErrKind) (info : Word) (s : State) : State := report (errCode kind) 0 info s

/-- LZ_PULL at the limit (spec/43_lzss.md R157, R158). -/
def endOfStream (s : State) : State := report codeSizeReached 0 0 s

/-- A CMD word that is no command (spec/30_encoding.md R82). -/
def raiseIllegal (s : State) : State := raiseErr .illegalCommand 0 s

/-! ### `seeded` -/

/-- The PRNG's readers are guarded by `seeded` (R23): with it clear they raise NotSeeded and change no state. -/
def ifSeeded (s : State) (act : State → State) : State :=
  if s.prng.seeded then act s else raiseErr .notSeeded 0 s

/-! ### `odd` -/

/-- `fold(w)` (spec/42_checksum.md R135): the chunk is XORed in when `odd` is false and added when it is true, and
`odd` toggles. -/
def fold (w : Word) (c : Checksum) : Checksum :=
  { c with sum := if c.odd then c.sum + w else c.sum ^^^ w, odd := !c.odd }

end Sys2Proof.Machine
end

