-- ==== Sys2Proof/Machine/Prng.lean ====
section
/-! DEFINITION. SeededPRNG: PRNG_SEED and PRNG_NEXT (spec/40_prng.md). -/

namespace Sys2Proof.Machine

open Sys2Proof

/-- `seed_iterate(seed)`, the 64-bit recipe of R100 line by line; answers `(new_seed, word)`. -/
def seedIterate (seed : Word) : Word × Word :=
  let product : BitVec 64 := 0x41C64E6D#64 * seed.setWidth 64
  let high : Word := product.extractLsb' 32 32
  let low : Word := product.extractLsb' 0 32
  let shifted : Word := high <<< 16
  let joined : BitVec 64 := shifted.setWidth 64 <<< 32 ||| low.setWidth 64
  let t : BitVec 64 := joined + 0x0000FFFF00003039#64
  let tHigh : Word := t.extractLsb' 32 32
  let tLow : Word := t.extractLsb' 0 32
  (tLow, (tHigh &&& 0xFFFF0000#32) ||| (tLow >>> 16))

/-- `fill`'s loop (R102). The list holds the entries above index `n`; each word goes in front of it, so the first one
generated ends at the top index and the last at index 0. -/
def fillFrom : Nat → Word → List Word → List Word
  | 0, _, entries => entries
  | n + 1, seed, entries =>
    match seedIterate seed with
    | (newSeed, word) => fillFrom n newSeed (word :: entries)

/-- `fill(seed)` (R102): all 250 entries, index 0 first. -/
def fill (seed : Word) : List Word := fillFrom tableSize seed []

/-- `fixup`'s loop (R103), with a bound on its iterations beside the loop's own test. -/
def fixupFrom : Nat → Word → Word → Nat → List Word → List Word
  | 0, _, _, _, entries => entries
  | n + 1, bit, mask, idx, entries =>
    if bit = 0 then entries
    else fixupFrom n (bit >>> 1) (mask >>> 1) (idx + 7) (entries.modify idx (fun w => bit ||| (w &&& mask)))

/-- `fixup()` (R103): "exactly 32 iterations". -/
def fixup (entries : List Word) : List Word := fixupFrom 32 0x80000000 0xFFFFFFFF 3 entries

theorem fillFrom_length (n : Nat) (seed : Word) (entries : List Word) :
    (fillFrom n seed entries).length = n + entries.length := by
  induction n generalizing seed entries with
  | zero => simp [fillFrom]
  | succ n ih => simp only [fillFrom, ih, List.length_cons]; omega

theorem fixupFrom_length (n : Nat) (bit mask : Word) (idx : Nat) (entries : List Word) :
    (fixupFrom n bit mask idx entries).length = entries.length := by
  induction n generalizing bit mask idx entries with
  | zero => rfl
  | succ n ih =>
    simp only [fixupFrom]
    split
    · rfl
    · rw [ih, List.length_modify]

theorem fixup_fill_length (seed : Word) : (fixup (fill seed)).toArray.size = tableSize := by
  simp [fixup, fill, fixupFrom_length, fillFrom_length]

/-- The PRNG a seed constructs (R102 to R104, R106): nothing of an earlier one is left. -/
def constructPrng (seed : Word) : Prng where
  table := ⟨(fixup (fill seed)).toArray, fixup_fill_length seed⟩
  i := 0
  j := 103
  seeded := true

/-- `next()` (R105): the word, and the PRNG after it. -/
def drawWord (p : Prng) : Word × Prng :=
  let v := p.table[p.i] ^^^ p.table[p.j]
  (v, { p with table := p.table.set p.i v, i := p.i + 1, j := p.j + 1 })

/-- The shape PRNG_NEXT, DEOB_WORD and DEOB_BYTE share (R107, R121, R122): if seeded, draw one word and complete with
a value made of it. -/
def drawAnd (value : Word → Word) (s : State) : State :=
  ifSeeded s fun s =>
    match drawWord s.prng with
    | (v, p) => complete (value v) (setPrng p s)

/-- PRNG_SEED (R106). -/
def execPrngSeed (s : State) : Result :=
  .next (complete 0 (setPrng (constructPrng (operandWord s)) s))

/-- PRNG_NEXT (R107). -/
def execPrngNext (s : State) : Result :=
  .next (drawAnd (fun v => v) s)

end Sys2Proof.Machine
end

