-- ==== Sys2Proof/Machine/Deob.lean ====
section
/-! DEFINITION. The deobfuscator: DEOB_WORD, DEOB_BYTE and the whole-buffer function (spec/41_deobfuscator.md). -/

namespace Sys2Proof.Machine

open Sys2Proof

/-- The two loops of R120: complete groups in order, then 0 to 3 trailing bytes, each with a word of its own. Answers
the PRNG after it too. -/
def deobBytes : List Byte → Prng → List Byte × Prng
  | b0 :: b1 :: b2 :: b3 :: rest, p =>
    match drawWord p with
    | (v, p) =>
      match deobBytes rest p with
      | (bytes, p) => (bytesLe (le32Of b0 b1 b2 b3 ^^^ v) ++ bytes, p)
  | b :: rest, p =>
    match drawWord p with
    | (v, p) =>
      match deobBytes rest p with
      | (bytes, p) => ((b ^^^ low8 v) :: bytes, p)
  | [], p => ([], p)

/-- `Deobfuscate(R)` (R120), on a PRNG of its own. -/
def deobfuscate (raw : List Byte) : Except Err (List Byte) :=
  if raw.length < 4 then .error ⟨.inputTooSmall, 0⟩
  else .ok (deobBytes (raw.drop 4) (constructPrng (le32 raw 0))).1

/-- DEOB_WORD (R121). -/
def execDeobWord (s : State) : Result :=
  .next (drawAnd (fun v => operandWord s ^^^ v) s)

/-- DEOB_BYTE (R122). -/
def execDeobByte (s : State) : Result :=
  .next (drawAnd (fun v => zext32 (operandByte s ^^^ low8 v)) s)

end Sys2Proof.Machine
end

