-- ==== Sys2Proof/Machine/Fold.lean ====
section
/-! DEFINITION. The checksum: CK_CLEAR, CK_BYTE, CK_WORD, CK_READ and the one-shot function (spec/42_checksum.md). -/

namespace Sys2Proof.Machine

open Sys2Proof

/-- The loop of `checksum` (R135): the complete chunks in order; 1 to 3 trailing bytes are ignored. -/
def foldChunks : List Byte → Checksum → Checksum
  | b0 :: b1 :: b2 :: b3 :: rest, c => foldChunks rest (fold (le32Of b0 b1 b2 b3) c)
  | _, c => c

/-- `checksum(D)` (R135), on an accumulator of its own. -/
def checksum (bytes : List Byte) : Word := (foldChunks bytes Checksum.reset).sum

/-- What CK_CLEAR does to the unit (R136): the `pend` bytes keep their values. -/
def ckClear (c : Checksum) : Checksum := { c with sum := 0, odd := false, pendN := 0 }

/-- The fourth byte of a chunk, first byte lowest (R137). -/
def completeChunk (b : Byte) (c : Checksum) : Checksum :=
  { fold (le32Of c.pend[0] c.pend[1] c.pend[2] b) c with pendN := 0 }

/-- A byte joins the pending ones (R137). -/
def pendByte (b : Byte) (c : Checksum) : Checksum :=
  { c with pend := c.pend.setIfInBounds c.pendN.toNat b, pendN := c.pendN + 1 }

/-- What CK_BYTE does to the unit (R137): the byte completes a chunk, which is folded, or joins the pending ones. -/
def ckAppend (b : Byte) (c : Checksum) : Checksum :=
  if c.pendN = 3 then completeChunk b c else pendByte b c

/-- What CK_WORD does to the unit (R138): CK_BYTE's body four times, the low byte first. -/
def ckAppendWord (w : Word) (c : Checksum) : Checksum :=
  ckAppend (wordByte w 3) (ckAppend (wordByte w 2) (ckAppend (wordByte w 1) (ckAppend (wordByte w 0) c)))

/-- CK_CLEAR (R136). -/
def execCkClear (s : State) : Result :=
  .next (complete 0 (setChecksum (ckClear s.ck) s))

/-- CK_BYTE (R137). -/
def execCkByte (s : State) : Result :=
  .next (complete 0 (setChecksum (ckAppend (operandByte s) s.ck) s))

/-- CK_WORD (R138). -/
def execCkWord (s : State) : Result :=
  .next (complete 0 (setChecksum (ckAppendWord (operandWord s) s.ck) s))

/-- CK_READ (R139). -/
def execCkRead (s : State) : Result :=
  .next (complete s.ck.sum s)

end Sys2Proof.Machine
end

