-- ==== Sys2Proof/Machine/Lzss.lean ====
section
/-! DEFINITION. The LZSS window decompressor: LZ_INIT, LZ_PULL, the tokens LIT and COPY, and the whole-payload function
(spec/43_lzss.md). -/

namespace Sys2Proof.Machine

open Sys2Proof

/-- A fresh decompressor (R150). -/
def freshLzss (src : List Byte) (limit : Word) : Lzss :=
  { window := [], wp := 1, rc := 0, rem := 0, src := src, bitpos := 0, limit := limit, outCount := 0 }

/-- `W[wp] <- b; wp <- (wp + 1) mod 4096` (R153, R155). -/
def storeByte (b : Byte) (u : Lzss) : Lzss :=
  { u with window := Mem.write u.window u.wp.toNat b, wp := u.wp + 1 }

/-- `CopyByte()` (R155): the read comes before the write. -/
def copyByte (u : Lzss) : Byte × Lzss :=
  let b := windowByte u u.rc
  (b, { storeByte b u with rc := u.rc + 1, rem := u.rem - 1 })

/-- `n` stream bits are consumed (R151). -/
def consumeBits (n : Nat) (u : Lzss) : Lzss := { u with bitpos := u.bitpos + n }

/-- The copy length a length field stands for (spec/30_encoding.md R78). -/
def copyLength (lengthField : BitVec 4) : BitVec 5 := lengthField.setWidth 5 + 2

/-- `rc <- off; rem <- lf + 2` (R152). -/
def startCopy (offset : BitVec 12) (lengthField : BitVec 4) (u : Lzss) : Lzss :=
  { u with rc := offset, rem := copyLength lengthField }

/-- Run one token: its bits are consumed and it emits its first byte (R152 to R154). `none`: PrematureEnd, because
fewer bits remain than the token has. -/
def runToken (t : Token) (u : Lzss) : Option (Byte × Lzss) :=
  if 8 * u.src.length < u.bitpos + tokenWidth t then none
  else
    match t with
    | .lit b => some (b, storeByte b (consumeBits 9 u))
    | .copy offset lengthField => some (copyByte (startCopy offset lengthField (consumeBits 17 u)))

/-- `LzStep()` (R152): the next output byte and the unit after it. `none`: PrematureEnd; nothing has changed, which is
the snapshot R158 restores. -/
def lzStep (u : Lzss) : Option (Byte × Lzss) :=
  if u.rem = 0 then
    match decodeToken u.src u.bitpos with
    | .ok t => runToken t u
    | .error _ => none
  else some (copyByte u)

/-- `out_count <- out_count + 1` (R158). -/
def countByte (u : Lzss) : Lzss := { u with outCount := u.outCount + 1 }

/-- The size-limiting wrapper around one decoding step, and what the pull reports (R157, R158). -/
def pullWith (stepUnit : Lzss → Option (Byte × Lzss)) (s : State) : State :=
  if s.lz.outCount = s.lz.limit then endOfStream s
  else
    match stepUnit s.lz with
    | some (b, u) => complete (zext32 b) (setLzss (countByte u) s)
    | none => raiseErr .prematureEnd s.lz.outCount s

/-- `Decompress`'s loop (R159): `n` bytes more, `produced` of them there already. The error carries the count of
bytes produced before it (R202). -/
def decompressFrom : Nat → Nat → Lzss → Except Err (List Byte)
  | 0, _, _ => .ok []
  | n + 1, produced, u =>
    match lzStep u with
    | none => .error ⟨.prematureEnd, BitVec.ofNat 32 produced⟩
    | some (b, u) =>
      match decompressFrom n (produced + 1) u with
      | .ok bytes => .ok (b :: bytes)
      | .error e => .error e

/-- `Decompress(P, size)` (R159), on a decompressor of its own. -/
def decompress (payload : List Byte) (size : Word) : Except Err (List Byte) :=
  decompressFrom size.toNat 0 (freshLzss payload size)

/-- LZ_INIT (R150). A SRC_IN longer than `MAX_IN_LEN` is refused (spec/60_exceptions.md R213). -/
def execLzInit (s : State) : Result :=
  if s.cfg.maxInLen < (operandBytes s).length then .refused .inputTooLong
  else .next (complete 0 (setLzss (freshLzss (operandBytes s) (operandWord s)) s))

/-- LZ_PULL (R158). -/
def execLzPull (s : State) : Result :=
  .next (pullWith lzStep s)

/-- LIT (R153): the pull that fetches this token (notes/assumptions/8.md). -/
def execLit (b : Byte) (s : State) : Result :=
  .next (pullWith (runToken (.lit b)) s)

/-- COPY (R154): the pull that fetches this token and emits its first byte (notes/assumptions/8.md). -/
def execCopy (offset : BitVec 12) (lengthField : BitVec 4) (s : State) : Result :=
  .next (pullWith (runToken (.copy offset lengthField)) s)

end Sys2Proof.Machine
end

