-- ==== Sys2Proof/Machine/Orchestrator.lean ====
section
/-! DEFINITION. Header parse and decode sequencer: DECODE and the four compression codes (spec/44_orchestrator.md). All
of its working state is private (spec/10_state.md R33): values of these functions, in no field of the state. -/

namespace Sys2Proof.Machine

open Sys2Proof

/-- The header's fields (spec/30_encoding.md R72). -/
structure Header where
  unpackedSize : Word
  checksumDeobfuscated : Word
  checksumUncompressed : Word
  compressionCode : Word
  deriving DecidableEq, Repr

/-- `ParseHeader(D)` (R180); the code is looked up where it is used (`compressionOf`). -/
def parseHeader (d : List Byte) : Except Err Header :=
  if d.length < headerLength then .error ⟨.prematureEnd, 0⟩
  else .ok ⟨le32 d 0, le32 d 4, le32 d 8, le32 d 12⟩

/-- Steps 1 and 2 of DECODE (R182, R183): the header and the payload of a container that passes them. -/
def openContainer (raw : List Byte) : Except Err (Header × List Byte) :=
  if raw.length ≤ rejectedLength then .error ⟨.contentTooSmall, 0⟩
  else
    match deobfuscate raw with
    | .error e => .error e
    | .ok dbuf =>
      match parseHeader dbuf with
      | .error e => .error e
      | .ok h =>
        if checksum (dbuf.drop headerLength) = h.checksumDeobfuscated then .ok (h, dbuf.drop headerLength)
        else .error ⟨.deobfuscateChecksumNotMatch, 0⟩

/-- DECODE ends with an error: nothing is delivered (R181, R189). -/
def failDecode (e : Err) (s : State) : Result :=
  .next (raiseErr e.kind e.info (setOut [] s))

/-- DECODE ends with an output (R181). -/
def deliver (bytes : List Byte) (s : State) : Result :=
  .next (complete (BitVec.ofNat 32 bytes.length) (setOut bytes s))

/-- Step 3 for Uncompressed (R184), refused beyond `OUT_CAP` (spec/60_exceptions.md R213). -/
def finishUncompressed (payload : List Byte) (s : State) : Result :=
  if s.cfg.outCap < payload.length then .refused .outputTooLong else deliver payload s

/-- Step 3 for LZSS (R186), refused beyond `OUT_CAP` on entry (R213). -/
def finishLzss (h : Header) (payload : List Byte) (s : State) : Result :=
  if s.cfg.outCap < h.unpackedSize.toNat then .refused .outputTooLong
  else
    match decompress payload h.unpackedSize with
    | .error e => failDecode e s
    | .ok bytes =>
      if checksum bytes = h.checksumUncompressed then deliver bytes s
      else failDecode ⟨.decompressChecksumNonMatch, 0⟩ s

/-- Step 3 (R184 to R187). -/
def finish (c : Compression) (h : Header) (payload : List Byte) (s : State) : Result :=
  match c with
  | .uncompressed => finishUncompressed payload s
  | .rle => failDecode ⟨.compressionNotSupported, 0⟩ s
  | .lzss => finishLzss h payload s
  | .unknown _ => failDecode ⟨.invalidCompressionType, 0⟩ s

/-- The sequence DECODE runs on SRC_IN (R181), step 3 following the compression `choose` finds in the header. -/
def decodeWith (choose : Word → Compression) (s : State) : Result :=
  if s.cfg.maxInLen < (operandBytes s).length then .refused .inputTooLong
  else
    match openContainer (operandBytes s) with
    | .error e => failDecode e s
    | .ok (h, payload) => finish (choose h.compressionCode) h payload s

/-- DECODE (R181). -/
def execDecode (s : State) : Result := decodeWith compressionOf s

/-- COMP_UNCOMPRESSED (R184): the DECODE that finds this code (notes/assumptions/9.md). -/
def execCompUncompressed (s : State) : Result := decodeWith (fun _ => .uncompressed) s

/-- COMP_RLE (R185): the DECODE that finds this code. -/
def execCompRle (s : State) : Result := decodeWith (fun _ => .rle) s

/-- COMP_LZSS (R186): the DECODE that finds this code. -/
def execCompLzss (s : State) : Result := decodeWith (fun _ => .lzss) s

/-- COMP_UNKNOWN (R187): the DECODE that finds this code. -/
def execCompUnknown (code : Word) (s : State) : Result := decodeWith (fun _ => .unknown code) s

end Sys2Proof.Machine
end

