-- ==== Sys2Proof/Machine/Dispatch.lean ====
section
/-! DEFINITION. One arm per instruction, each a direct call of its meaning. -/

namespace Sys2Proof.Machine

open Sys2Proof

def exec (i : Instr) (s : State) : Host.Outcome State Fault Refusal :=
  match i with
  | .prngSeed => Sys2Proof.Machine.execPrngSeed s
  | .prngNext => Sys2Proof.Machine.execPrngNext s
  | .deobWord => Sys2Proof.Machine.execDeobWord s
  | .deobByte => Sys2Proof.Machine.execDeobByte s
  | .ckClear => Sys2Proof.Machine.execCkClear s
  | .ckByte => Sys2Proof.Machine.execCkByte s
  | .ckWord => Sys2Proof.Machine.execCkWord s
  | .ckRead => Sys2Proof.Machine.execCkRead s
  | .lzInit => Sys2Proof.Machine.execLzInit s
  | .lzPull => Sys2Proof.Machine.execLzPull s
  | .decode => Sys2Proof.Machine.execDecode s
  | .lit b => Sys2Proof.Machine.execLit b s
  | .copy offset lengthField => Sys2Proof.Machine.execCopy offset lengthField s
  | .compUncompressed => Sys2Proof.Machine.execCompUncompressed s
  | .compRle => Sys2Proof.Machine.execCompRle s
  | .compLzss => Sys2Proof.Machine.execCompLzss s
  | .compUnknown code => Sys2Proof.Machine.execCompUnknown code s

end Sys2Proof.Machine
end

