-- ==== Sys2Proof/Machine/HostBus.lean ====
section
/-! DEFINITION. The host register map but for a write of CMD (spec/10_state.md R34 to R37). -/

namespace Sys2Proof.Machine

open Sys2Proof

/-- The registers of R34's map, with its reserved range. -/
inductive BusRegister where
  | cmd
  | dataIn
  | result
  | status
  | errInfo
  /-- 0x14 to 0xFF. -/
  | reserved
  deriving DecidableEq, Repr

/-- The register at a byte offset (R34). `none`: an offset inside a register that is not the register's own; the spec
gives no such access (notes/assumptions/13.md, safe). -/
def busRegister (offset : BitVec 8) : Option BusRegister :=
  if offset = 0x00 then some .cmd
  else if offset = 0x04 then some .dataIn
  else if offset = 0x08 then some .result
  else if offset = 0x0C then some .status
  else if offset = 0x10 then some .errInfo
  else if 0x14 ≤ offset.toNat then some .reserved
  else none

/-- What a read returns (R34 to R37): CMD has no read value and reads 0; STATUS has bits [31:8] hardwired 0. -/
def busRead (r : BusRegister) (s : State) : Word :=
  match r with
  | .cmd => 0
  | .dataIn => s.dataIn
  | .result => s.result
  | .status => zext32 s.statusCode
  | .errInfo => s.errInfo
  | .reserved => 0

/-- A read has no side effect on the block (spec/20_memory.md R60): only the host's own copy of the value changes. -/
def hostReads (r : BusRegister) (s : State) : State := { s with hostRead := busRead r s }

/-- A write of a register other than CMD (R34, R37). DEDUCED (notes/assumptions/12.md): a write of a read-only register
changes nothing. Writes of the reserved range are ignored (R34). -/
def busWrite (r : BusRegister) (value : Word) (s : State) : State :=
  match r with
  | .dataIn => { s with dataIn := value }
  | .cmd | .result | .status | .errInfo | .reserved => s

/-- The host places a sequence on SRC_IN (R34, R80). -/
def hostPresents (bytes : List Byte) (s : State) : State := { s with srcIn := bytes }

/-- Reset (spec/70_reset_and_hazards.md R230): every register of the block to its reset value. What the host holds (its
own accesses, what it last read, what it drives on SRC_IN) and the parameters are not the block's registers and stay
(notes/assumptions/11.md). -/
def resetBlock (s : State) : State :=
  { State.resetWith s.cfg with srcIn := s.srcIn, hostRead := s.hostRead, host := s.host }

end Sys2Proof.Machine
end

