-- ==== Sys2Proof/Machine/HostStep.lean ====
section
/-! DEFINITION. One step: the block serves the host's next access (spec/00_scope.md R5, spec/10_state.md R34). And
where an instruction must stand for the next step to run it. -/

namespace Sys2Proof.Machine

open Sys2Proof

/-- A write of CMD: the word is decoded first (spec/60_exceptions.md R206), and starts the command it encodes or raises
IllegalCommand (spec/30_encoding.md R82). -/
def runCommand (w : Word) (s : State) : Result :=
  match decodeCommand w with
  | .ok i => exec i s
  | .error _ => .next (raiseIllegal s)

/-- One host access, already taken off the list. -/
def serve (e : HostEvent) (s : State) : Result :=
  match e with
  | .write offset value =>
    match busRegister offset with
    | some .cmd => runCommand value s
    | some r => .next (busWrite r value s)
    | none => .fault (.noRegisterAt offset)
  | .read offset =>
    match busRegister offset with
    | some r => .next (hostReads r s)
    | none => .fault (.noRegisterAt offset)
  | .present bytes => .next (hostPresents bytes s)
  | .reset => .next (resetBlock s)

/-- One step. With no access to serve the block is idle (spec/70_reset_and_hazards.md R231): nothing changes
(notes/assumptions/2.md). -/
def hostStep (s : State) : Result :=
  match s.host with
  | [] => .next s
  | e :: rest => serve e { s with host := rest }

/-! ### Placing an instruction (notes/assumptions/11.md) -/

/-- The host's next access starts a command. -/
def placeCommand (w : Word) (s : State) : State := { s with host := .write 0x00 w :: s.host }

/-- The decompressor with a token's bits at `bitpos`: the bits before it stay (0 where there were none), no copy is
pending, and the size limit is not yet reached. -/
def placeTokenBits (bits : List Bool) (u : Lzss) : Lzss :=
  { u with
    src := packBits ((bytesBits u.src ++ List.replicate u.bitpos false).take u.bitpos ++ bits)
    rem := 0
    limit := if u.outCount = u.limit then 1 else u.limit
    outCount := if u.outCount = u.limit then 0 else u.outCount }

/-- The shortest container that opens with a given compression code: seed 0, a payload of one zero byte (whose checksum
is 0), the rest of the header 0. Obfuscation is deobfuscation (spec/41_deobfuscator.md R125). -/
def codeContainer (code : Word) : List Byte :=
  bytesLe 0 ++ (deobBytes (bytesLe 0 ++ bytesLe 0 ++ bytesLe 0 ++ bytesLe code ++ [0]) (constructPrng 0)).1

/-- Put an instruction, given as its class and bytes, where the next step fetches one. A command is written to CMD; a
token stands at `bitpos` and LZ_PULL fetches it; a compression code stands in the header of a container on SRC_IN and
DECODE fetches it. -/
def placeInstr (c : EncClass) (bytes : List Byte) (s : State) : State :=
  match c with
  | .hostCommand => placeCommand (le32 bytes 0) s
  | .token => placeCommand 0x0000000A (setLzss (placeTokenBits (bytesBits bytes) s.lz) s)
  | .headerCode => placeCommand 0x0000000B (hostPresents (codeContainer (le32 bytes 0)) s)

/-- Place the instruction whose bits are `w` in the table's numbering; a number that is none changes nothing. -/
def placeTableWord (s : State) (nbits w : Nat) : State :=
  match tableEncoding nbits w with
  | some (c, bytes) => placeInstr c bytes s
  | none => s

end Sys2Proof.Machine
end

