-- ==== Sys2Proof/Machine/Assembler.lean ====
section
/-! DEFINITION. The assembler syntax: token programs and command mnemonics (spec/30_encoding.md R84, R85). -/

namespace Sys2Proof.Machine

open Sys2Proof

/-- A token as it is written: `LIT b`, or `COPY off, len` with `len` the actual copy length (R84). -/
inductive AsmToken where
  | lit (b : Nat)
  | copy (off len : Nat)
  deriving DecidableEq, Repr

/-- The token a line assembles to; `none`: an operand is out of its range, and it does not assemble (R84). -/
def asmToken : AsmToken → Option Token
  | .lit b => if b ≤ 0xFF then some (.lit (BitVec.ofNat 8 b)) else none
  | .copy off len =>
    if off ≤ 4095 ∧ 2 ≤ len ∧ len ≤ 17 then some (.copy (BitVec.ofNat 12 off) (BitVec.ofNat 4 (len - 2))) else none

/-- A token program's bit string, before padding (R84). -/
def tokensBits (ts : List Token) : List Bool := ts.flatMap tokenBits

/-- A token program's bytes (R84). -/
def asmTokens (program : List AsmToken) : Option (List Byte) :=
  (program.mapM asmToken).map fun ts => packBits (tokensBits ts)

/-- A command line: a mnemonic with its operands (R85). -/
inductive AsmCommand where
  | prngSeed (seed : Word)
  | prngNext
  | deobWord (group : Word)
  | deobByte (b : Byte)
  | ckClear
  | ckByte (b : Byte)
  | ckWord (chunk : Word)
  | ckRead
  | lzInit (limit : Word) (bytes : List Byte)
  | lzPull
  | decode (bytes : List Byte)
  deriving DecidableEq, Repr

/-- The instruction a mnemonic names. -/
def AsmCommand.instr : AsmCommand → Instr
  | .prngSeed _ => .prngSeed
  | .prngNext => .prngNext
  | .deobWord _ => .deobWord
  | .deobByte _ => .deobByte
  | .ckClear => .ckClear
  | .ckByte _ => .ckByte
  | .ckWord _ => .ckWord
  | .ckRead => .ckRead
  | .lzInit _ _ => .lzInit
  | .lzPull => .lzPull
  | .decode _ => .decode

/-- The value a line writes to DATA_IN, 0 if it has no operand (R85). -/
def AsmCommand.operand : AsmCommand → Word
  | .prngSeed v | .deobWord v | .ckWord v | .lzInit v _ => v
  | .deobByte b | .ckByte b => zext32 b
  | .prngNext | .ckClear | .ckRead | .lzPull | .decode _ => 0

/-- The sequence a line places on SRC_IN, if it has one (R85). -/
def AsmCommand.source : AsmCommand → Option (List Byte)
  | .lzInit _ bytes | .decode bytes => some bytes
  | .prngSeed _ | .prngNext | .deobWord _ | .deobByte _ | .ckClear | .ckByte _ | .ckWord _ | .ckRead | .lzPull => none

/-- The host accesses a line means: the operand to DATA_IN, the sequence on SRC_IN, then the CMD word (R85). -/
def asmCommand (c : AsmCommand) : List HostEvent :=
  .write 0x04 c.operand ::
    ((match c.source with
      | some bytes => [.present bytes]
      | none => [])
      ++ [.write 0x00 (BitVec.ofNat 32 (encodeNumber c.instr))])

end Sys2Proof.Machine
end

