-- ==== Sys2Proof/Safety.lean ====
section
/-! DEFINITION. What claims are stated in: the invariant of a sound state, what a command leaves alone, and the answer of
an instruction. -/

namespace Sys2Proof.Safety

open Sys2Proof Sys2Proof.Machine

/-- spec/10_state.md R40: the second cursor is 103 ahead of the first, modulo 250. -/
abbrev CursorsInStep (p : Prng) : Prop := p.j.val = (p.i.val + 103) % 250

/-- spec/10_state.md R28 to R32: the window is in canonical form, `rem` is at most 17, `bitpos` is inside the stream,
`out_count ≤ limit`. -/
abbrev LzssSound (u : Lzss) : Prop :=
  Mem.wf u.window = true ∧ u.rem.toNat ≤ 17 ∧ u.bitpos ≤ 8 * u.src.length ∧ u.outCount.toNat ≤ u.limit.toNat

/-- spec/10_state.md R36, R37; spec/60_exceptions.md R201, R202, R204, R214: STATUS holds a code some command produces
(no reserved code, and not InputTooSmall's), RESULT is 0 unless it is OK, ERR_INFO is 0 unless it is PrematureEnd. -/
abbrev ReportSound (s : State) : Prop :=
  s.statusCode.toNat ≤ 0x0A ∧ s.statusCode ≠ 0x02
    ∧ (s.statusCode ≠ 0x00 → s.result = 0) ∧ (s.statusCode ≠ 0x07 → s.errInfo = 0)

/-- The invariant every step keeps. -/
abbrev Inv (s : State) : Prop := CursorsInStep s.prng ∧ LzssSound s.lz ∧ ReportSound s

/-- STATUS holds an error (spec/60_exceptions.md R200), not a completion code (R201). -/
abbrev IsErrorCode (code : BitVec 8) : Prop := code ≠ 0x00 ∧ code ≠ 0x0A

/-- No unit register of spec/10_state.md R21 to R32 differs. -/
abbrev SameUnits (s t : State) : Prop := t.prng = s.prng ∧ t.ck = s.ck ∧ t.lz = s.lz

/-- Nothing the host holds or drives differs: DATA_IN, SRC_IN, the parameters, the model's own `hostRead` and `host`. -/
abbrev SameHost (s t : State) : Prop :=
  t.dataIn = s.dataIn ∧ t.srcIn = s.srcIn ∧ t.cfg = s.cfg ∧ t.hostRead = s.hostRead ∧ t.host = s.host

/-- STATUS, RESULT and ERR_INFO after a command. -/
abbrev Reports (t : State) (code : BitVec 8) (result info : Word) : Prop :=
  t.statusCode = code ∧ t.result = result ∧ t.errInfo = info

/-- Every register at its reset value (spec/70_reset_and_hazards.md R230's table). The PRNG table `T` has no row here: R21
leaves its reset value unspecified. -/
abbrev AtReset (s : State) : Prop :=
  s.prng.i.val = 0 ∧ s.prng.j.val = 103 ∧ s.prng.seeded = false
    ∧ s.ck.sum = 0 ∧ s.ck.odd = false ∧ s.ck.pend.toList = [0, 0, 0] ∧ s.ck.pendN = 0
    ∧ (∀ a : BitVec 12, windowByte s.lz a = 0) ∧ s.lz.wp = 1 ∧ s.lz.rc = 0 ∧ s.lz.rem = 0
    ∧ s.lz.src = [] ∧ s.lz.bitpos = 0 ∧ s.lz.limit = 0 ∧ s.lz.outCount = 0
    ∧ s.dataIn = 0 ∧ s.result = 0 ∧ s.errInfo = 0 ∧ s.statusCode = 0x00

/-! ### Commands in a row -/

/-- Issue commands in order, each with its DATA_IN; answers every RESULT and the state after the last, if each one answers
a next state. -/
def issueAll : List (Instr × Word) → State → Option (List Word × State)
  | [], s => some ([], s)
  | (i, d) :: rest, s =>
    match exec i { s with dataIn := d } with
    | .next t =>
      match issueAll rest t with
      | some (results, u) => some (t.result :: results, u)
      | none => none
    | .fault _ => none
    | .refused _ => none

/-- The DATA_IN bits a command reads (spec/30_encoding.md R81, R83). -/
def usedDataIn : Instr → Word
  | .prngSeed | .deobWord | .ckWord | .lzInit => 0xFFFFFFFF
  | .deobByte | .ckByte => 0x000000FF
  | .prngNext | .ckClear | .ckRead | .lzPull | .decode | .lit _ | .copy _ _
  | .compUncompressed | .compRle | .compLzss | .compUnknown _ => 0

/-- The status codes a host command can end with (spec/60_exceptions.md R204). A token is the LZ_PULL that fetches it; a
compression code is the DECODE that finds it, so it has the DECODE codes its own step 3 leaves possible. -/
def statusCodes : Instr → List (BitVec 8)
  | .prngSeed | .ckClear | .ckByte | .ckWord | .ckRead | .lzInit => [0x00]
  | .prngNext | .deobWord | .deobByte => [0x00, 0x08]
  | .lzPull | .lit _ | .copy _ _ => [0x00, 0x07, 0x0A]
  | .decode => [0x00, 0x01, 0x03, 0x04, 0x05, 0x06, 0x07]
  | .compUncompressed => [0x00, 0x01, 0x03]
  | .compRle => [0x01, 0x03, 0x05]
  | .compLzss => [0x00, 0x01, 0x03, 0x04, 0x07]
  | .compUnknown _ => [0x01, 0x03, 0x06]

/-! ### SeededPRNG, in numbers -/

/-- The seed after `n` iterations, in closed form (spec/40_prng.md R101). -/
def lcgSeed (seed : Word) : Nat → Nat
  | 0 => seed.toNat
  | n + 1 => (0x41C64E6D * lcgSeed seed n + 0x3039) % 2 ^ 32

/-- The word iteration `n + 1` generates, in closed form (R101). -/
def lcgWord (seed : Word) (n : Nat) : Nat := (0x41C64E6D * lcgSeed seed n + 0x3039) / 2 ^ 16 % 2 ^ 32

/-- Entry `k` after PRNG_SEED: the word of iteration `250 − k` (R102), and at `k = 3 + 7c`, `c` at most 31, bit `31 − c`
set over the bits below it (R103). -/
def seededEntry (seed : Word) (k : Nat) : Nat :=
  if k % 7 = 3 ∧ k ≤ 220 then
    2 ^ (31 - (k - 3) / 7) + lcgWord seed (249 - k) % 2 ^ (31 - (k - 3) / 7)
  else lcgWord seed (249 - k)

/-- The generator after `n` calls of `next()`. -/
def drawMany : Nat → Prng → Prng
  | 0, p => p
  | n + 1, p => (drawWord (drawMany n p)).2

/-- What call `n + 1` of `next()` returns. -/
def nthWord (p : Prng) (n : Nat) : Word := (drawWord (drawMany n p)).1

/-- One word `v` has been drawn from `s` to `t`, and nothing else has changed but what the command reports (R105, R107). -/
abbrev DrewOneWord (s t : State) (v : Word) : Prop :=
  v = s.prng.table[s.prng.i] ^^^ s.prng.table[s.prng.j]
    ∧ (∀ k : Fin 250, t.prng.table[k] = if k = s.prng.i then v else s.prng.table[k])
    ∧ t.prng.i.val = (s.prng.i.val + 1) % 250 ∧ t.prng.j.val = (s.prng.j.val + 1) % 250
    ∧ t.prng.seeded = true
    ∧ t.ck = s.ck ∧ t.lz = s.lz ∧ t.out = s.out ∧ SameHost s t

/-- The commands that deobfuscate a buffer: DEOB_WORD for each group, DEOB_BYTE for each trailing byte
(spec/41_deobfuscator.md R123, spec/70_reset_and_hazards.md R232). -/
def deobCommands : List Byte → List (Instr × Word)
  | b0 :: b1 :: b2 :: b3 :: rest => (.deobWord, le32Of b0 b1 b2 b3) :: deobCommands rest
  | b :: rest => (.deobByte, zext32 b) :: deobCommands rest
  | [] => []

/-- The bytes those commands' RESULTs hold: four of a DEOB_WORD's, one of a DEOB_BYTE's (R121, R122). -/
def resultBytes : List (Instr × Word) → List Word → List Byte
  | (i, _) :: commands, w :: results =>
    (if i = .deobWord then bytesLe w else [low8 w]) ++ resultBytes commands results
  | _, _ => []

/-! ### Checksum -/

/-- The bytes a CK_BYTE or CK_WORD appends to the stream, given its DATA_IN (spec/42_checksum.md R137, R138). -/
def fedBytes (c : Instr × Word) : List Byte := if c.1 = .ckByte then [low8 c.2] else bytesLe c.2

/-! ### LZSS, from the bytes emitted so far instead of a circular window -/

/-- The byte at window address `a` after the bytes `sent` have been emitted: output `n` was stored at `n + 1` modulo
4096, so this is the latest output stored there, or 0 (spec/43_lzss.md R150, R153, R155). -/
def windowAfter (sent : List Byte) (a : Nat) : Byte :=
  if (sent.length + windowSize - a % windowSize) % windowSize < sent.length then
    sent.getD (sent.length - 1 - (sent.length + windowSize - a % windowSize) % windowSize) 0
  else 0

/-- `n` bytes copied from window address `a` on (R155). -/
def sendCopy : Nat → Nat → List Byte → List Byte
  | 0, _, sent => sent
  | n + 1, a, sent => sendCopy n (a + 1) (sent ++ [windowAfter sent a])

/-- The bytes emitted once a token has run in full (R153, R154). -/
def sendToken (sent : List Byte) : Token → List Byte
  | .lit b => sent ++ [b]
  | .copy offset lengthField => sendCopy (lengthField.toNat + 2) offset.toNat sent

/-- The bytes a token sequence emits in full. -/
def sendTokens (ts : List Token) : List Byte := ts.foldl sendToken []

/-- The number of bytes a token emits (R160). -/
def tokenOutput : Token → Nat
  | .lit _ => 1
  | .copy _ lengthField => lengthField.toNat + 2

/-- `n` bytes of a pending copy, and the unit after them (R155). -/
def copyBytes : Nat → Lzss → List Byte × Lzss
  | 0, u => ([], u)
  | n + 1, u => ((copyByte u).1 :: (copyBytes n (copyByte u).2).1, (copyBytes n (copyByte u).2).2)

/-- The unit after `n` decoding steps, if none runs into the end of the stream. -/
def lzSteps : Nat → Lzss → Option Lzss
  | 0, u => some u
  | n + 1, u =>
    match lzStep u with
    | some (_, u) => lzSteps n u
    | none => none

/-- A pull that must produce a byte, with no copy pending, needs a bit past the end of the stream (spec/30_encoding.md R77,
spec/43_lzss.md R153, R154, R161). -/
abbrev TokenCutShort (u : Lzss) : Prop :=
  8 * u.src.length ≤ u.bitpos
    ∨ (streamBit u.src u.bitpos = some true ∧ 8 * u.src.length < u.bitpos + 9)
    ∨ (streamBit u.src u.bitpos = some false ∧ 8 * u.src.length < u.bitpos + 17)

/-! ### Containers -/

/-- A header's 16 bytes (spec/30_encoding.md R72). -/
def headerBytes (unpackedSize checksumDeobfuscated checksumUncompressed code : Word) : List Byte :=
  bytesLe unpackedSize ++ bytesLe checksumDeobfuscated ++ bytesLe checksumUncompressed ++ bytesLe code

/-- The container whose deobfuscated buffer is `body`: obfuscation is deobfuscation (spec/41_deobfuscator.md R125). -/
def sealContainer (seed : Word) (body : List Byte) : List Byte :=
  bytesLe seed ++ (deobBytes body (constructPrng seed)).1

/-- SRC_IN holds a container DECODE's steps 1 and 2 let through, and `d` is its deobfuscated buffer
(spec/44_orchestrator.md R182, R183). -/
abbrev Opens (s : State) (d : List Byte) : Prop :=
  20 < s.srcIn.length ∧ s.srcIn.length ≤ s.cfg.maxInLen ∧ deobfuscate s.srcIn = .ok d ∧ checksum (d.drop 16) = le32 d 4

/-- DECODE or a compression code ends with an error: only these four change (R181, R202). -/
def failed (s : State) (code : BitVec 8) (info : Word) : State :=
  { s with out := [], statusCode := code, result := 0, errInfo := info }

/-- DECODE or a compression code delivers `bytes`: only these four change (R181). -/
def delivered (s : State) (bytes : List Byte) : State :=
  { s with out := bytes, statusCode := 0x00, result := BitVec.ofNat 32 bytes.length, errInfo := 0 }

end Sys2Proof.Safety
end

