-- ==== Sys2Proof/Certificates/Slice0/Obligations.lean ====
section
/-! DEFINITION. The statements for the provers, in the order of the spec's files. -/

open Sys2Proof Sys2Proof.Machine Sys2Proof.Safety

/-! ### Reset, the step and the host interface -/

/-- spec/70_reset_and_hazards.md R230: the reset state has every register at its reset value, and so has the state after a step
that serves the host's reset; the PRNG's readers then fail (its table is "unreadable"), CK_CLEAR changes nothing of the
checksum unit and `LZ_INIT 0, []` nothing of the decompressor; and reset is the only event that clears `seeded`. -/
def Obligations.ResetValues : Prop :=
  (∀ cfg : Config, AtReset (State.resetWith cfg))
  ∧ (∀ s rest, s.host = .reset :: rest →
    ∃ t, step s = .next t ∧ AtReset t
      ∧ (∀ i ∈ [Instr.prngNext, .deobWord, .deobByte], ∃ u, exec i t = .next u ∧ u.statusCode = 0x08)
      ∧ (∃ u, exec .ckClear t = .next u ∧ u.ck = t.ck)
      ∧ (∃ u, exec .lzInit { t with srcIn := [], dataIn := 0 } = .next u ∧ u.lz = t.lz))
  ∧ ∀ s t, step s = .next t → s.prng.seeded = true → t.prng.seeded = false → ∃ rest, s.host = .reset :: rest

/-- The reset state meets the invariant `StepKeepsInvariant` is about. -/
def Obligations.ResetMeetsInvariant : Prop := ∀ cfg : Config, Inv (State.resetWith cfg)

/-- Every step keeps the invariant: the cursors stay 103 apart (R40), the window stays canonical and `rem`, `bitpos` and
`out_count` in their ranges (R28 to R32), STATUS, RESULT and ERR_INFO consistent (R36, R37, R201, R202). -/
def Obligations.StepKeepsInvariant : Prop :=
  ∀ s t : State, Inv s → step s = .next t → Inv t

/-- A step runs the decoded instruction: where the host's next access writes a CMD word that decodes to `i`, the step is
`exec` of `i` on the state with that access taken off the host's list, and nothing else around it (spec/00_scope.md R5,
spec/10_state.md R34). -/
def Obligations.StepRunsDecodedCommand : Prop :=
  ∀ (s : State) (w : Word) (rest : List HostEvent) (i : Instr),
    s.host = .write 0x00 w :: rest → decode .hostCommand (bytesLe w) = .ok i →
      step s = exec i { s with host := rest }

/-- The in-band stream: with no copy pending, LZ_PULL runs the token at `bitpos` (spec/43_lzss.md R152). That a token is
a pull of its own is the model's reading (notes/assumptions/8.md). -/
def Obligations.LzPullRunsDecodedToken : Prop :=
  ∀ (s : State) (tok : Token),
    s.lz.rem = 0 → decodeToken s.lz.src s.lz.bitpos = .ok tok → exec .lzPull s = exec tok.instr s

/-- DECODE runs the compression code its container's header holds (spec/44_orchestrator.md R181). That a code is a DECODE of its
own is the model's reading (notes/assumptions/9.md). -/
def Obligations.DecodeRunsHeaderCode : Prop :=
  ∀ (s : State) (d : List Byte),
    deobfuscate s.srcIn = .ok d → exec .decode s = exec (compressionOf (le32 d 12)).instr s

/-- spec/30_encoding.md R82: a CMD word with `OP` 0x0 or 0xC to 0xF, or with any of bits [31:4] set, changes only the three
report registers, to IllegalCommand; every other CMD word is a command (no hint, no custom space). -/
def Obligations.IllegalCommandReported : Prop :=
  ∀ (s : State) (w : Word) (rest : List HostEvent), s.host = .write 0x00 w :: rest →
    ((w.toNat % 16 = 0 ∨ 12 ≤ w.toNat % 16 ∨ w.toNat / 16 ≠ 0) →
      step s = .next { s with host := rest, statusCode := 0x09, result := 0, errInfo := 0 })
    ∧ (¬(w.toNat % 16 = 0 ∨ 12 ≤ w.toNat % 16 ∨ w.toNat / 16 ≠ 0) →
      ∃ i : Instr, i.encClass = .hostCommand ∧ step s = exec i { s with host := rest })

/-- A read of a register (spec/10_state.md R34 to R37): CMD and the reserved offsets read 0, STATUS reads its code with bits
[31:8] 0, and no read changes the block (spec/20_memory.md R60). `hostRead` is the model's own field (notes/assumptions/6.md). -/
def Obligations.HostReadsRegister : Prop :=
  ∀ (s : State) (offset : BitVec 8) (rest : List HostEvent), s.host = .read offset :: rest →
    (offset = 0x00 → step s = .next { s with host := rest, hostRead := 0 })
    ∧ (offset = 0x04 → step s = .next { s with host := rest, hostRead := s.dataIn })
    ∧ (offset = 0x08 → step s = .next { s with host := rest, hostRead := s.result })
    ∧ (offset = 0x0C → ∃ v : Word, step s = .next { s with host := rest, hostRead := v }
        ∧ v.toNat = s.statusCode.toNat)
    ∧ (offset = 0x10 → step s = .next { s with host := rest, hostRead := s.errInfo })
    ∧ (0x14 ≤ offset.toNat → step s = .next { s with host := rest, hostRead := 0 })

/-- What the host's other accesses do (R34, R37): DATA_IN takes the value written to it, a reserved offset ignores its write, a
sequence presented stands on SRC_IN, and with no access the block is idle (spec/70_reset_and_hazards.md R231; the idle step is
the model's reading, notes/assumptions/2.md). That a write of RESULT, STATUS or ERR_INFO (all read-only) changes nothing is the
model's reading too (notes/assumptions/12.md). -/
def Obligations.HostInputsTakeEffect : Prop :=
  (∀ (s : State) (offset : BitVec 8) (v : Word) (rest : List HostEvent), s.host = .write offset v :: rest →
    (offset = 0x04 → step s = .next { s with host := rest, dataIn := v })
    ∧ (offset = 0x08 ∨ offset = 0x0C ∨ offset = 0x10 ∨ 0x14 ≤ offset.toNat → step s = .next { s with host := rest }))
  ∧ (∀ (s : State) (bytes : List Byte) (rest : List HostEvent), s.host = .present bytes :: rest →
      step s = .next { s with host := rest, srcIn := bytes })
  ∧ ∀ s : State, s.host = [] → step s = .next s

/-- The model's choice (notes/assumptions/13.md): an access at an offset inside a register of the map, but not at its start,
stops the machine. -/
def Obligations.UnmappedOffsetStops : Prop :=
  ∀ (s : State) (offset : BitVec 8) (v : Word) (rest : List HostEvent),
    offset.toNat < 0x14 → offset.toNat % 4 ≠ 0 →
    (s.host = .write offset v :: rest ∨ s.host = .read offset :: rest) →
      step s = .fault (.noRegisterAt offset)

/-! ### Encodings -/

/-- Words written out from the spec's encodings (spec/30_encoding.md R73, R75, R76, R81) decode to what they stand for. -/
def Obligations.SampleWordsDecode : Prop :=
  decode .hostCommand [0x01, 0x00, 0x00, 0x00] = .ok .prngSeed
  ∧ decode .hostCommand [0x06, 0x00, 0x00, 0x00] = .ok .ckByte
  ∧ decode .hostCommand [0x0B, 0x00, 0x00, 0x00] = .ok .decode
  ∧ decode .hostCommand [0x12, 0x00, 0x00, 0x00] = .error .reservedBitsSet
  ∧ decode .hostCommand [0x0C, 0x00, 0x00, 0x00] = .error .reservedOpcode
  ∧ decode .token [0xA0, 0x80] = .ok (.lit 0x41)
  ∧ decode .token [0x00, 0x08, 0x80] = .ok (.copy 1 1)
  ∧ decode .token [0x7F, 0xF8, 0x00] = .ok (.copy 4095 0)
  ∧ decode .headerCode [0x00, 0x00, 0x00, 0x00] = .ok .compUncompressed
  ∧ decode .headerCode [0x02, 0x00, 0x00, 0x00] = .ok .compLzss
  ∧ decode .headerCode [0x01, 0x00, 0x00, 0x80] = .ok (.compUnknown 0x80000001)

/-- spec/20_memory.md R53: where stream bit `k` stands, and how many bits a stream has. -/
def Obligations.StreamBitOrder : Prop :=
  ∀ (src : List Byte) (k : Nat),
    (k < 8 * src.length → streamBit src k = some (decide ((src.getD (k / 8) 0).toNat / 2 ^ (7 - k % 8) % 2 = 1)))
    ∧ (8 * src.length ≤ k → streamBit src k = none)

/-- spec/20_memory.md R54, spec/30_encoding.md R75, R76, R78: a field's first stream bit is its top bit; a LIT's byte is bits
1 to 8 of the token, a COPY's offset bits 1 to 12 and its length field bits 13 to 16; both are unsigned and taken as they are. -/
def Obligations.FieldsAreMsbFirst : Prop :=
  (∀ (src : List Byte) (n pos v : Nat), readBits src n pos = some v →
    v < 2 ^ n ∧ ∀ k, k < n → streamBit src (pos + k) = some (v.testBit (n - 1 - k)))
  ∧ (∀ (src : List Byte) (pos : Nat) (b : Byte), decodeToken src pos = .ok (.lit b) →
    streamBit src pos = some true ∧ ∀ k, k < 8 → streamBit src (pos + 1 + k) = some (b.getLsbD (7 - k)))
  ∧ ∀ (src : List Byte) (pos : Nat) (offset : BitVec 12) (lengthField : BitVec 4),
    decodeToken src pos = .ok (.copy offset lengthField) →
      streamBit src pos = some false
      ∧ (∀ k, k < 12 → streamBit src (pos + 1 + k) = some (offset.getLsbD (11 - k)))
      ∧ ∀ k, k < 4 → streamBit src (pos + 13 + k) = some (lengthField.getLsbD (3 - k))

/-- spec/30_encoding.md R77, which the spec marks as inferred from R75 and R76: the first bit alone sets a token's length, and every pattern of that length is a token. -/
def Obligations.TokenSpaceComplete : Prop :=
  ∀ (src : List Byte) (pos : Nat),
    (streamBit src pos = some true → pos + 9 ≤ 8 * src.length →
      ∃ t, decodeToken src pos = .ok t ∧ tokenWidth t = 9)
    ∧ (streamBit src pos = some false → pos + 17 ≤ 8 * src.length →
      ∃ t, decodeToken src pos = .ok t ∧ tokenWidth t = 17)
    ∧ ∀ t, decodeToken src pos = .ok t →
      (streamBit src pos = some true ∧ tokenWidth t = 9 ∨ streamBit src pos = some false ∧ tokenWidth t = 17)
      ∧ pos + tokenWidth t ≤ 8 * src.length

/-- Decode and encode agree, for every well-formed instruction, every operand at every value its encoding admits. -/
def Obligations.DecodeEncodeRoundTrip : Prop :=
  ∀ i : Instr, i.wellFormed = true → decode i.encClass (encode i) = .ok i

/-- Tokens are not byte-aligned (spec/20_memory.md R53, spec/30_encoding.md R74): a token's bits decode to it wherever they
stand in a stream. -/
def Obligations.TokenDecodesAnywhere : Prop :=
  ∀ (t : Token) (before after : List Bool),
    decodeToken (packBits (before ++ tokenBits t ++ after)) before.length = .ok t

/-- spec/30_encoding.md R81: every CMD word is decoded by an exact 32-bit compare. -/
def Obligations.CommandWordsAreExact : Prop :=
  ∀ (w : Word) (i : Instr), decodeCommand w = .ok i ↔ (i.encClass = .hostCommand ∧ w.toNat = encodeNumber i)

/-- spec/00_scope.md R9, spec/20_memory.md R51, R55: the byte at the lowest offset is bits [7:0], `bytes_le` is the inverse, and
each byte of a group XORed with a word is the input byte XORed with the same byte of the word. -/
def Obligations.LittleEndianWords : Prop :=
  (∀ b0 b1 b2 b3 : Byte, (le32 [b0, b1, b2, b3] 0).toNat
    = b0.toNat + 2 ^ 8 * b1.toNat + 2 ^ 16 * b2.toNat + 2 ^ 24 * b3.toNat)
  ∧ (∀ v : Word, le32 (bytesLe v) 0 = v)
  ∧ ∀ (b0 b1 b2 b3 : Byte) (v : Word), bytesLe (le32 [b0, b1, b2, b3] 0 ^^^ v)
      = [b0 ^^^ v.extractLsb' 0 8, b1 ^^^ v.extractLsb' 8 8, b2 ^^^ v.extractLsb' 16 8, b3 ^^^ v.extractLsb' 24 8]

/-! ### SeededPRNG -/

/-- spec/40_prng.md R101, the closed form the spec infers from the 64-bit recipe of R100. -/
def Obligations.SeedIterateClosedForm : Prop :=
  ∀ seed : Word,
    0x41C64E6D * seed.toNat + 0x3039 < 2 ^ 63
    ∧ (seedIterate seed).1.toNat = (0x41C64E6D * seed.toNat + 0x3039) % 2 ^ 32
    ∧ (seedIterate seed).2.toNat = (0x41C64E6D * seed.toNat + 0x3039) / 2 ^ 16 % 2 ^ 32

/-- PRNG_SEED completes in every state, and what it builds (spec/40_prng.md R102, R103, R104): the table from the top index
down with R103's fix-up, the cursors, `seeded`; it touches no other unit, and no port (its frame). -/
def Obligations.PrngSeedBuildsTable : Prop :=
  ∀ s : State, ∃ t, exec .prngSeed s = .next t
    ∧ (∀ k : Fin 250, t.prng.table[k].toNat = seededEntry s.dataIn k.val)
    ∧ t.prng.i.val = 0 ∧ t.prng.j.val = 103 ∧ t.prng.seeded = true
    ∧ Reports t 0x00 0 0 ∧ t.ck = s.ck ∧ t.lz = s.lz ∧ t.out = s.out ∧ SameHost s t

/-- PRNG_NEXT completes in every seeded state: RESULT is the next word, `T[i]` is overwritten with it, both cursors advance
(spec/40_prng.md R105, R107), and nothing else changes. -/
def Obligations.PrngNextDrawsWord : Prop :=
  ∀ s : State, s.prng.seeded = true → ∃ t v, exec .prngNext s = .next t
    ∧ DrewOneWord s t v ∧ Reports t 0x00 v 0

/-- DEOB_WORD completes in every seeded state: RESULT is the group XOR the word it draws (spec/41_deobfuscator.md R121). -/
def Obligations.DeobWordXorsWord : Prop :=
  ∀ s : State, s.prng.seeded = true → ∃ t v, exec .deobWord s = .next t
    ∧ DrewOneWord s t v ∧ Reports t 0x00 (s.dataIn ^^^ v) 0

/-- DEOB_BYTE completes in every seeded state: RESULT is DATA_IN's low byte XOR the low byte of the word it draws, its bits
[31:8] 0; the whole word is consumed (spec/41_deobfuscator.md R122). -/
def Obligations.DeobByteXorsLowByte : Prop :=
  ∀ s : State, s.prng.seeded = true → ∃ t v, exec .deobByte s = .next t
    ∧ DrewOneWord s t v ∧ t.result.toNat = (s.dataIn.toNat % 256) ^^^ (v.toNat % 256) ∧ t.result.toNat < 256
    ∧ t.statusCode = 0x00 ∧ t.errInfo = 0

/-- spec/10_state.md R23: PRNG_SEED sets `seeded`; no other instruction changes it; reset clears it; its reset value is 0;
with it 0 the three readers fail with NotSeeded and change no other state. -/
def Obligations.SeededGuardsTheTable : Prop :=
  (∀ s t, exec .prngSeed s = .next t → t.prng.seeded = true)
  ∧ (∀ i s t, exec i s = .next t → i ≠ .prngSeed → t.prng.seeded = s.prng.seeded)
  ∧ (∀ s t rest, s.host = .reset :: rest → step s = .next t → t.prng.seeded = false)
  ∧ (∀ cfg, (State.resetWith cfg).prng.seeded = false)
  ∧ ∀ i ∈ [Instr.prngNext, .deobWord, .deobByte], ∀ s : State, s.prng.seeded = false →
      exec i s = .next { s with statusCode := 0x08, result := 0, errInfo := 0 }

/-- spec/40_prng.md R105, R108: what the stream is. Call `n + 1` has the cursors at `n` and `n + 103`, modulo 250, so the
first 147 calls XOR two entries PRNG_SEED left, calls 148 to 250 one of them with the word of 147 calls before, and every
later call the words of 250 and of 147 calls before: the stream is a function of the seed alone. -/
def Obligations.LaggedXorStream : Prop :=
  ∀ (seed : Word) (n : Nat),
    let p := constructPrng seed
    (drawMany n p).i.val = n % 250 ∧ (drawMany n p).j.val = (n + 103) % 250
    ∧ (n < 147 → (nthWord p n).toNat = seededEntry seed n ^^^ seededEntry seed (n + 103))
    ∧ (147 ≤ n → n < 250 → (nthWord p n).toNat = seededEntry seed n ^^^ (nthWord p (n - 147)).toNat)
    ∧ (250 ≤ n → nthWord p n = nthWord p (n - 250) ^^^ nthWord p (n - 147))

/-! ### Deobfuscator -/

/-- spec/41_deobfuscator.md R120, R123: byte `k` of the output is byte `k` of the rest XORed with byte `k mod 4` of word
`k div 4`, or, for the trailing byte after all complete groups, with the low byte of a word of its own. -/
def Obligations.DeobfuscatedByteFormula : Prop :=
  ∀ (raw : List Byte), 4 ≤ raw.length → ∃ out, deobfuscate raw = .ok out
    ∧ ∀ k, k < raw.length - 4 →
      (k < 4 * ((raw.length - 4) / 4) →
        out.getD k 0 = raw.getD (k + 4) 0 ^^^ wordByte (nthWord (constructPrng (le32 raw 0)) (k / 4)) (k % 4))
      ∧ (4 * ((raw.length - 4) / 4) ≤ k →
        out.getD k 0 = raw.getD (k + 4) 0
          ^^^ low8 (nthWord (constructPrng (le32 raw 0)) ((raw.length - 4) / 4 + k % 4)))

/-- spec/41_deobfuscator.md R124: the output's length, the 4-byte input that draws no word, the inputs too short to hold a
seed, and that their error cannot arise inside DECODE. -/
def Obligations.DeobfuscateLength : Prop :=
  (∀ raw : List Byte, 4 ≤ raw.length → ∃ out, deobfuscate raw = .ok out ∧ out.length = raw.length - 4)
  ∧ (∀ raw : List Byte, raw.length = 4 → deobfuscate raw = .ok [])
  ∧ (∀ p : Prng, deobBytes [] p = ([], p))
  ∧ (∀ raw : List Byte, raw.length < 4 → deobfuscate raw = .error ⟨.inputTooSmall, 0⟩)
  ∧ ∀ s t : State, exec .decode s = .next t → t.statusCode ≠ 0x02

/-- spec/41_deobfuscator.md R125: obfuscation is deobfuscation. -/
def Obligations.DeobfuscateSelfInverse : Prop :=
  ∀ (seed : Word) (plain : List Byte), ∃ hidden, deobfuscate (bytesLe seed ++ plain) = .ok hidden
    ∧ deobfuscate (bytesLe seed ++ hidden) = .ok plain

/-- spec/41_deobfuscator.md R123, which the spec infers from R120, R121 and R122: PRNG_SEED, then DEOB_WORD for each group and DEOB_BYTE for each trailing byte, completes from
every state, yields the bytes `Deobfuscate` yields, and draws one word a command, `(n div 4) + (n mod 4)` in all. -/
def Obligations.StreamingDeobfuscationMatches : Prop :=
  ∀ (s : State) (raw : List Byte), 4 ≤ raw.length →
    ∃ results t, issueAll ((.prngSeed, le32 raw 0) :: deobCommands (raw.drop 4)) s = some (0 :: results, t)
      ∧ deobfuscate raw = .ok (resultBytes (deobCommands (raw.drop 4)) results)
      ∧ (deobCommands (raw.drop 4)).length = (raw.length - 4) / 4 + (raw.length - 4) % 4
      ∧ t.prng = drawMany ((raw.length - 4) / 4 + (raw.length - 4) % 4) (constructPrng (le32 raw 0))

/-! ### Checksum -/

/-- CK_CLEAR completes in every state (spec/42_checksum.md R136): the accumulator, the phase and the count of pending bytes
are cleared, the `pend` bytes keep their values, nothing else changes. -/
def Obligations.CkClearStartsOver : Prop :=
  ∀ s : State, ∃ t, exec .ckClear s = .next t
    ∧ t.ck.sum = 0 ∧ t.ck.odd = false ∧ t.ck.pendN = 0 ∧ t.ck.pend = s.ck.pend
    ∧ Reports t 0x00 0 0 ∧ t.prng = s.prng ∧ t.lz = s.lz ∧ t.out = s.out ∧ SameHost s t

/-- CK_BYTE completes in every state (spec/42_checksum.md R137): the byte joins the pending ones, or is the fourth and
completes a chunk, first byte lowest, which is XORed in or added by `odd`; nothing else changes. -/
def Obligations.CkByteAppends : Prop :=
  ∀ s : State, ∃ t, exec .ckByte s = .next t
    ∧ (s.ck.pendN.toNat < 3 →
        t.ck.pendN.toNat = s.ck.pendN.toNat + 1 ∧ t.ck.sum = s.ck.sum ∧ t.ck.odd = s.ck.odd
        ∧ ∀ k : Fin 3, t.ck.pend[k] = if k.val = s.ck.pendN.toNat then s.dataIn.extractLsb' 0 8 else s.ck.pend[k])
    ∧ (s.ck.pendN.toNat = 3 →
        t.ck.pendN = 0 ∧ t.ck.odd = !s.ck.odd ∧ t.ck.pend = s.ck.pend
        ∧ t.ck.sum = if s.ck.odd then
            s.ck.sum + le32 [s.ck.pend[0], s.ck.pend[1], s.ck.pend[2], s.dataIn.extractLsb' 0 8] 0
          else s.ck.sum ^^^ le32 [s.ck.pend[0], s.ck.pend[1], s.ck.pend[2], s.dataIn.extractLsb' 0 8] 0)
    ∧ Reports t 0x00 0 0 ∧ t.prng = s.prng ∧ t.lz = s.lz ∧ t.out = s.out ∧ SameHost s t

/-- CK_WORD completes in every state (spec/42_checksum.md R138): exactly one chunk completes, so `odd` toggles once and
`pend_n` is unchanged; with nothing pending the chunk is DATA_IN itself; otherwise it is the pending bytes and DATA_IN's low
bytes, and DATA_IN's high bytes stay pending; the `pend` bytes from `pend_n` on, which no command can show, hold DATA_IN's low
bytes, as R137's body leaves them; nothing else changes. -/
def Obligations.CkWordFoldsOneChunk : Prop :=
  ∀ s : State, ∃ t chunk, exec .ckWord s = .next t
    ∧ t.ck.odd = (!s.ck.odd) ∧ t.ck.pendN = s.ck.pendN
    ∧ t.ck.sum = (if s.ck.odd then s.ck.sum + chunk else s.ck.sum ^^^ chunk)
    ∧ (s.ck.pendN.toNat = 0 → chunk = s.dataIn)
    ∧ (∀ k : Fin 3, k.val < s.ck.pendN.toNat → wordByte chunk k.val = s.ck.pend[k]
        ∧ t.ck.pend[k] = wordByte s.dataIn (4 - s.ck.pendN.toNat + k.val))
    ∧ (∀ k : Fin 3, s.ck.pendN.toNat ≤ k.val → t.ck.pend[k] = wordByte s.dataIn (k.val - s.ck.pendN.toNat))
    ∧ (∀ k, s.ck.pendN.toNat ≤ k → k < 4 → wordByte chunk k = wordByte s.dataIn (k - s.ck.pendN.toNat))
    ∧ Reports t 0x00 0 0 ∧ t.prng = s.prng ∧ t.lz = s.lz ∧ t.out = s.out ∧ SameHost s t

/-- CK_READ completes in every state (spec/42_checksum.md R139): RESULT is `sum` whatever bytes are pending, and nothing but
the report changes, so reading twice answers the same. -/
def Obligations.CkReadReturnsSum : Prop :=
  ∀ s : State, exec .ckRead s = .next { s with result := s.ck.sum, statusCode := 0x00, errInfo := 0 }
    ∧ exec .ckRead { s with result := s.ck.sum, statusCode := 0x00, errInfo := 0 }
      = .next { s with result := s.ck.sum, statusCode := 0x00, errInfo := 0 }

/-- spec/42_checksum.md R135: the complete chunks in order, those at even positions XORed in and those at odd ones added;
trailing bytes ignored. -/
def Obligations.ChecksumAlternates : Prop :=
  ∀ data : List Byte, checksum data =
    (List.range (data.length / 4)).foldl
      (fun sum c => if c % 2 = 0 then sum ^^^ le32 data (4 * c) else sum + le32 data (4 * c)) 0

/-- spec/42_checksum.md R140, which the spec infers from R135, R137 and R138: from every state, CK_CLEAR, then any mix of CK_BYTE and CK_WORD, then CK_READ completes and
returns the one-shot checksum of the bytes fed. -/
def Obligations.IncrementalChecksum : Prop :=
  ∀ (s : State) (commands : List (Instr × Word)), (∀ c ∈ commands, c.1 = .ckByte ∨ c.1 = .ckWord) →
    ∃ results t, issueAll ((.ckClear, 0) :: commands ++ [(.ckRead, 0)]) s = some (results, t)
      ∧ t.result = checksum (commands.flatMap fedBytes)

/-- spec/42_checksum.md R141, which the spec infers from R135: short data, two chunks, and that three chunks' order matters. -/
def Obligations.ChecksumProperties : Prop :=
  (∀ data : List Byte, data.length < 4 → checksum data = 0)
  ∧ (∀ w0 w1 : Word, checksum (bytesLe w0 ++ bytesLe w1) = w0 + w1)
  ∧ (∀ w0 w1 w2 : Word, checksum (bytesLe w0 ++ bytesLe w1 ++ bytesLe w2) = (w0 + w1) ^^^ w2)
  ∧ checksum (bytesLe 1 ++ bytesLe 2 ++ bytesLe 3) = 0 ∧ checksum (bytesLe 3 ++ bytesLe 2 ++ bytesLe 1) = 4

/-! ### LZSS -/

/-- LZ_INIT completes for every SRC_IN it may accept (spec/43_lzss.md R150), whatever the decompressor held: every window byte
0, `wp` 1, no copy pending, the stream and the limit bound; nothing else changes. -/
def Obligations.LzInitMakesFresh : Prop :=
  ∀ s : State, s.srcIn.length ≤ s.cfg.maxInLen → ∃ t, exec .lzInit s = .next t
    ∧ (∀ a : BitVec 12, windowByte t.lz a = 0) ∧ t.lz.wp = 1 ∧ t.lz.rc = 0 ∧ t.lz.rem = 0
    ∧ t.lz.src = s.srcIn ∧ t.lz.bitpos = 0 ∧ t.lz.limit = s.dataIn ∧ t.lz.outCount = 0
    ∧ Reports t 0x00 0 0 ∧ t.prng = s.prng ∧ t.ck = s.ck ∧ t.out = s.out ∧ SameHost s t

/-- LIT completes wherever its 9 bits remain and the limit is not reached (spec/43_lzss.md R153): the byte is stored at `wp`,
which advances modulo 4096, and emitted; no other window byte, and nothing else, changes. The canonical window is
`StepKeepsInvariant`'s, the limit and the token's own pull are the model's reading (notes/assumptions/8.md). -/
def Obligations.LitStoresAndEmits : Prop :=
  ∀ (s : State) (b : Byte),
    Mem.wf s.lz.window = true → s.lz.outCount ≠ s.lz.limit → s.lz.bitpos + 9 ≤ 8 * s.lz.src.length →
    ∃ t, exec (.lit b) s = .next t
      ∧ windowByte t.lz s.lz.wp = b ∧ (∀ a, a ≠ s.lz.wp → windowByte t.lz a = windowByte s.lz a)
      ∧ t.lz.wp.toNat = (s.lz.wp.toNat + 1) % 4096 ∧ t.lz.bitpos = s.lz.bitpos + 9
      ∧ t.lz.rc = s.lz.rc ∧ t.lz.rem = s.lz.rem ∧ t.lz.src = s.lz.src ∧ t.lz.limit = s.lz.limit
      ∧ t.lz.outCount = s.lz.outCount + 1
      ∧ t.result.toNat = b.toNat ∧ t.statusCode = 0x00 ∧ t.errInfo = 0
      ∧ t.prng = s.prng ∧ t.ck = s.ck ∧ t.out = s.out ∧ SameHost s t

/-- COPY completes wherever its 17 bits remain and the limit is not reached (spec/43_lzss.md R154, R155): it emits the byte at
the absolute address `offset`, offset 0 like any other (spec/30_encoding.md R79), stores it at `wp`, and leaves
`length_field + 1` bytes pending from the next address on. Its limit and its own pull are the model's reading
(notes/assumptions/8.md). -/
def Obligations.CopyEmitsFirstByte : Prop :=
  ∀ (s : State) (offset : BitVec 12) (lengthField : BitVec 4),
    Mem.wf s.lz.window = true → s.lz.outCount ≠ s.lz.limit → s.lz.bitpos + 17 ≤ 8 * s.lz.src.length →
    ∃ t, exec (.copy offset lengthField) s = .next t
      ∧ windowByte t.lz s.lz.wp = windowByte s.lz offset
      ∧ (∀ a, a ≠ s.lz.wp → windowByte t.lz a = windowByte s.lz a)
      ∧ t.lz.wp.toNat = (s.lz.wp.toNat + 1) % 4096 ∧ t.lz.rc.toNat = (offset.toNat + 1) % 4096
      ∧ t.lz.rem.toNat = lengthField.toNat + 1 ∧ t.lz.bitpos = s.lz.bitpos + 17
      ∧ t.lz.src = s.lz.src ∧ t.lz.limit = s.lz.limit ∧ t.lz.outCount = s.lz.outCount + 1
      ∧ t.result.toNat = (windowByte s.lz offset).toNat ∧ t.statusCode = 0x00 ∧ t.errInfo = 0
      ∧ t.prng = s.prng ∧ t.ck = s.ck ∧ t.out = s.out ∧ SameHost s t

/-- LZ_PULL with a copy pending completes below the limit (spec/43_lzss.md R155, R156): it reads no stream bit and emits the
copy's next byte, read at `rc` before it is stored at `wp`. -/
def Obligations.LzPullResumesCopy : Prop :=
  ∀ s : State, Mem.wf s.lz.window = true → s.lz.outCount ≠ s.lz.limit → s.lz.rem ≠ 0 →
    ∃ t, exec .lzPull s = .next t
      ∧ windowByte t.lz s.lz.wp = windowByte s.lz s.lz.rc
      ∧ (∀ a, a ≠ s.lz.wp → windowByte t.lz a = windowByte s.lz a)
      ∧ t.lz.wp.toNat = (s.lz.wp.toNat + 1) % 4096 ∧ t.lz.rc.toNat = (s.lz.rc.toNat + 1) % 4096
      ∧ t.lz.rem.toNat + 1 = s.lz.rem.toNat ∧ t.lz.bitpos = s.lz.bitpos
      ∧ t.lz.src = s.lz.src ∧ t.lz.limit = s.lz.limit ∧ t.lz.outCount = s.lz.outCount + 1
      ∧ t.result.toNat = (windowByte s.lz s.lz.rc).toNat ∧ t.statusCode = 0x00 ∧ t.errInfo = 0
      ∧ t.prng = s.prng ∧ t.ck = s.ck ∧ t.out = s.out ∧ SameHost s t

/-- spec/43_lzss.md R157, R158: a pull at the limit reports SizeReached and changes nothing else, whatever the stream holds
and whatever is pending. For LIT and COPY it is the model's reading of them as pulls (notes/assumptions/8.md). -/
def Obligations.PullAtLimit : Prop :=
  ∀ s : State, s.lz.outCount = s.lz.limit →
    ∀ i : Instr, (i = .lzPull ∨ (∃ b, i = .lit b) ∨ ∃ offset lengthField, i = .copy offset lengthField) →
      exec i s = .next { s with statusCode := 0x0A, result := 0, errInfo := 0 }

/-- spec/43_lzss.md R153, R154, R158: below the limit and with no copy pending, LZ_PULL raises PrematureEnd exactly when the token
it needs is cut short; ERR_INFO is then `out_count`, no other state changes, and the same LZ_PULL fails the same way again. -/
def Obligations.PullPastStreamEnd : Prop :=
  ∀ s : State, s.lz.outCount ≠ s.lz.limit →
    (s.lz.rem = 0 → TokenCutShort s.lz →
      exec .lzPull s = .next { s with statusCode := 0x07, result := 0, errInfo := s.lz.outCount }
      ∧ exec .lzPull { s with statusCode := 0x07, result := 0, errInfo := s.lz.outCount }
        = .next { s with statusCode := 0x07, result := 0, errInfo := s.lz.outCount })
    ∧ (∀ t, exec .lzPull s = .next t → t.statusCode = 0x07 → s.lz.rem = 0 ∧ TokenCutShort s.lz)

/-- spec/43_lzss.md R155: self-referential overlap. With distance `d = (wp − offset) mod 4096` not 0, a copy emits the last `d`
window bytes repeated cyclically, however long it is; with distance 0 it re-emits the window from `wp` on, which it leaves as
it was. -/
def Obligations.CopyRepeatsLastBytes : Prop :=
  ∀ (u : Lzss) (n : Nat), Mem.wf u.window = true →
    (u.wp ≠ u.rc → ∀ k, k < n →
      (copyBytes n u).1.getD k 0 = windowByte u (u.rc + BitVec.ofNat 12 (k % (u.wp - u.rc).toNat)))
    ∧ (u.wp = u.rc →
      (∀ k, k < n → (copyBytes n u).1.getD k 0 = windowByte u (u.wp + BitVec.ofNat 12 k))
      ∧ ∀ a, windowByte (copyBytes n u).2 a = windowByte u a)

/-- spec/30_encoding.md R79: `W[0]` is not reached by the first 4095 bytes a fresh decompressor emits. -/
def Obligations.OffsetZeroStaysZero : Prop :=
  ∀ (src : List Byte) (limit : Word) (n : Nat) (u : Lzss),
    n ≤ 4095 → lzSteps n (freshLzss src limit) = some u → windowByte u 0 = 0 ∧ u.wp.toNat = (n + 1) % 4096

/-- spec/43_lzss.md R159, with R160 and R161, which the spec infers from R151, R152 and R157: an assembled token stream decompresses to what its tokens emit, cut at the declared size;
in full they emit one byte a LIT and `length_field + 2` a COPY; beyond that the decompressor reports PrematureEnd with the number
of bytes produced. The right side knows no circular window: it looks bytes up in the output itself. -/
def Obligations.TokenStreamOutput : Prop :=
  ∀ (ts : List Token) (size : Word),
    (sendTokens ts).length = (ts.map tokenOutput).sum
    ∧ (size.toNat ≤ (sendTokens ts).length →
        decompress (packBits (tokensBits ts)) size = .ok ((sendTokens ts).take size.toNat))
    ∧ ((sendTokens ts).length < size.toNat →
        decompress (packBits (tokensBits ts)) size = .error ⟨.prematureEnd, BitVec.ofNat 32 (sendTokens ts).length⟩)

/-- spec/43_lzss.md R159, R161: a decompression that succeeds yields exactly `size` bytes; input beyond what it read changes
nothing; and a smaller size yields a prefix. -/
def Obligations.UnreadInputIsIgnored : Prop :=
  ∀ (payload out : List Byte) (size : Word), decompress payload size = .ok out →
    out.length = size.toNat
    ∧ (∀ extra, decompress (payload ++ extra) size = .ok out)
    ∧ ∀ smaller : Word, smaller.toNat ≤ size.toNat → decompress payload smaller = .ok (out.take smaller.toNat)

/-! ### Header and DECODE -/

/-- spec/30_encoding.md R73: the compression code is compared as a whole. -/
def Obligations.CompressionCodes : Prop :=
  ∀ code : Word,
    (code.toNat = 0 → (compressionOf code).instr = .compUncompressed)
    ∧ (code.toNat = 1 → (compressionOf code).instr = .compRle)
    ∧ (code.toNat = 2 → (compressionOf code).instr = .compLzss)
    ∧ (3 ≤ code.toNat → (compressionOf code).instr = .compUnknown code)
    ∧ (compressionOf code).instr.wellFormed = true

/-- DECODE's outcomes in the order they are checked (spec/44_orchestrator.md R181 to R187, spec/60_exceptions.md R205), for every
container it may accept: it completes, or fails with the first error that applies, and changes OUT, STATUS, RESULT and ERR_INFO
only. -/
def Obligations.DecodeOutcomes : Prop :=
  ∀ s : State, s.srcIn.length ≤ s.cfg.maxInLen →
    (s.srcIn.length ≤ 20 → exec .decode s = .next (failed s 0x01 0))
    ∧ (20 < s.srcIn.length → ∃ d, deobfuscate s.srcIn = .ok d
      ∧ (checksum (d.drop 16) ≠ le32 d 4 → exec .decode s = .next (failed s 0x03 0))
      ∧ (checksum (d.drop 16) = le32 d 4 →
        (le32 d 12 = 0 → (d.drop 16).length ≤ s.cfg.outCap → exec .decode s = .next (delivered s (d.drop 16)))
        ∧ (le32 d 12 = 1 → exec .decode s = .next (failed s 0x05 0))
        ∧ (le32 d 12 = 2 → (le32 d 0).toNat ≤ s.cfg.outCap →
          (∀ e, decompress (d.drop 16) (le32 d 0) = .error e → exec .decode s = .next (failed s 0x07 e.info))
          ∧ (∀ out, decompress (d.drop 16) (le32 d 0) = .ok out →
            (checksum out ≠ le32 d 8 → exec .decode s = .next (failed s 0x04 0))
            ∧ (checksum out = le32 d 8 → exec .decode s = .next (delivered s out))))
        ∧ (3 ≤ (le32 d 12).toNat → exec .decode s = .next (failed s 0x06 0))))

/-- The compression codes complete, each with its own step 3 (spec/44_orchestrator.md R184 to R187), on every container steps 1
and 2 let through: COMP_UNCOMPRESSED delivers the payload, COMP_RLE and COMP_UNKNOWN always fail, COMP_LZSS delivers the
decompressed bytes. They change OUT, STATUS, RESULT and ERR_INFO only. That a code runs steps 1 and 2 itself
is the model's reading (notes/assumptions/9.md). -/
def Obligations.CompressionCodesComplete : Prop :=
  ∀ (s : State) (d : List Byte), Opens s d →
    ((d.drop 16).length ≤ s.cfg.outCap → exec .compUncompressed s = .next (delivered s (d.drop 16)))
    ∧ exec .compRle s = .next (failed s 0x05 0)
    ∧ (∀ code, exec (.compUnknown code) s = .next (failed s 0x06 0))
    ∧ ((le32 d 0).toNat ≤ s.cfg.outCap → ∀ out, decompress (d.drop 16) (le32 d 0) = .ok out →
      checksum out = le32 d 8 → exec .compLzss s = .next (delivered s out))

/-- spec/44_orchestrator.md R184 with spec/41_deobfuscator.md R125: a well-formed uncompressed container, of any seed, returns its
payload unchanged, whatever its `unpacked_size` and `checksum_uncompressed`. -/
def Obligations.UncompressedContainerRoundTrip : Prop :=
  ∀ (s : State) (seed unpacked cu : Word) (payload : List Byte),
    payload ≠ [] → payload.length + 20 ≤ s.cfg.maxInLen → payload.length ≤ s.cfg.outCap →
    s.srcIn = sealContainer seed (headerBytes unpacked (checksum payload) cu 0 ++ payload) →
      exec .decode s = .next (delivered s payload)

/-- spec/44_orchestrator.md R186: a well-formed LZSS container, of any seed, returns what its tokens emit. -/
def Obligations.LzssContainerRoundTrip : Prop :=
  ∀ (s : State) (seed size : Word) (ts : List Token),
    ts ≠ [] → size.toNat ≤ (sendTokens ts).length → size.toNat ≤ s.cfg.outCap →
    (packBits (tokensBits ts)).length + 20 ≤ s.cfg.maxInLen →
    s.srcIn = sealContainer seed
      (headerBytes size (checksum (packBits (tokensBits ts))) (checksum ((sendTokens ts).take size.toNat)) 2
        ++ packBits (tokensBits ts)) →
      exec .decode s = .next (delivered s ((sendTokens ts).take size.toNat))

/-- spec/44_orchestrator.md R188: the output's length, which RESULT holds. -/
def Obligations.DecodeOutputLength : Prop :=
  ∀ s t : State, exec .decode s = .next t → t.statusCode = 0x00 →
    t.result.toNat = t.out.length
    ∧ ∃ d, deobfuscate s.srcIn = .ok d
      ∧ (le32 d 12 = 0 ∧ t.out.length = s.srcIn.length - 20 ∨ le32 d 12 = 2 ∧ t.out.length = (le32 d 0).toNat)

/-- spec/44_orchestrator.md R189: DECODE is all-or-nothing, its outcome is a function of the container alone, and no host-visible
unit register changes. -/
def Obligations.DecodeIsPure : Prop :=
  (∀ s t : State, exec .decode s = .next t → IsErrorCode t.statusCode → t.out = [])
  ∧ (∀ s s' t t' : State, s.srcIn = s'.srcIn → exec .decode s = .next t → exec .decode s' = .next t' →
      t.out = t'.out ∧ t.result = t'.result ∧ t.statusCode = t'.statusCode ∧ t.errInfo = t'.errInfo)
  ∧ ∀ s t : State, exec .decode s = .next t → SameUnits s t ∧ SameHost s t

/-! ### Whole-machine rules -/

/-- spec/60_exceptions.md R203: a failing command changes no unit state, and OUT only where it is a DECODE (or one of the codes
DECODE runs). -/
def Obligations.FailingCommandChangesNoUnit : Prop :=
  (∀ i s t, exec i s = .next t → IsErrorCode t.statusCode →
    SameUnits s t ∧ SameHost s t ∧ t.result = 0
      ∧ (i ≠ .decode → i.encClass ≠ .headerCode → t.out = s.out))
  ∧ ∀ w r s, decodeCommand w = .error r →
    ∃ t, runCommand w s = .next t ∧ SameUnits s t ∧ SameHost s t ∧ t.out = s.out

/-- spec/60_exceptions.md R208, spec/43_lzss.md R158: an error leaves the block ready, and the same command fails the same way
again. -/
def Obligations.FailingCommandRepeats : Prop :=
  ∀ i s t, exec i s = .next t → IsErrorCode t.statusCode → exec i t = .next t

/-- The status codes a command can end with are exactly those of the table of spec/60_exceptions.md R204, which the spec marks
as its own inference: no other one ever, and each of these from some state. A token and a compression code have the rows of
the command that fetches them (notes/assumptions/8.md, 9.md). -/
def Obligations.StatusCodesPerCommand : Prop :=
  (∀ i code, (∃ s t, exec i s = .next t ∧ t.statusCode = code) ↔ code ∈ statusCodes i)
  ∧ ∀ w r s, decodeCommand w = .error r → ∃ t, runCommand w s = .next t ∧ t.statusCode = 0x09

/-- spec/10_state.md R20: each unit owns its state. Only the PRNG's commands change the PRNG, only the checksum's the checksum,
only the decompressor's the decompressor, only DECODE (or a code it runs) OUT; no instruction changes DATA_IN, SRC_IN or the
parameters. So nothing but LZ_INIT and the pulls disturbs a pending copy (spec/43_lzss.md R156). -/
def Obligations.UnitsAreIsolated : Prop :=
  ∀ i s t, exec i s = .next t →
    (i ∉ [Instr.prngSeed, .prngNext, .deobWord, .deobByte] → t.prng = s.prng)
    ∧ (i ∉ [Instr.ckClear, .ckByte, .ckWord] → t.ck = s.ck)
    ∧ (i ∉ [Instr.lzInit, .lzPull] → i.encClass ≠ .token → t.lz = s.lz)
    ∧ (i ≠ .decode → i.encClass ≠ .headerCode → t.out = s.out)
    ∧ SameHost s t

/-- spec/30_encoding.md R83: DATA_IN bits a command does not read have no effect and raise no error: with any value there, the
command answers the same, but for DATA_IN itself. -/
def Obligations.UnusedDataInIgnored : Prop :=
  ∀ (i : Instr) (s : State) (d : Word), d &&& usedDataIn i = s.dataIn &&& usedDataIn i →
    (∀ t, exec i s = .next t → exec i { s with dataIn := d } = .next { t with dataIn := d })
    ∧ (∀ r, exec i s = .refused r → exec i { s with dataIn := d } = .refused r)

/-- spec/60_exceptions.md R213: what the model refuses of the commands and the tokens, and only that. No instruction faults;
LZ_INIT is refused exactly where SRC_IN is longer than `MAX_IN_LEN`, DECODE exactly there and where it reaches an output of more
than `OUT_CAP` bytes, for these two reasons and no other. The compression codes, which are a DECODE of their own only in the
model's reading, are left to `CodeRefusals`. -/
def Obligations.CapacityRefusals : Prop :=
  (∀ i s f, exec i s ≠ .fault f)
  ∧ (∀ i s r, i.encClass ≠ .headerCode → exec i s = .refused r → i = .lzInit ∨ i = .decode)
  ∧ (∀ s r, exec .lzInit s = .refused r ↔ r = .inputTooLong ∧ s.cfg.maxInLen < s.srcIn.length)
  ∧ (∀ s r, exec .decode s = .refused r → r = .inputTooLong ∨ r = .outputTooLong)
  ∧ (∀ s, exec .decode s = .refused .inputTooLong ↔ s.cfg.maxInLen < s.srcIn.length)
  ∧ ∀ s, exec .decode s = .refused .outputTooLong ↔
      ∃ d, Opens s d ∧ (le32 d 12 = 0 ∧ s.cfg.outCap < s.srcIn.length - 20
        ∨ le32 d 12 = 2 ∧ s.cfg.outCap < (le32 d 0).toNat)

/-- The same of the compression codes, each as the DECODE that finds it (the model's reading, notes/assumptions/9.md): all are
refused where SRC_IN is longer than `MAX_IN_LEN`, COMP_UNCOMPRESSED and COMP_LZSS also where steps 1 and 2 let the container
through and their own step 3 reaches more than `OUT_CAP` bytes, and for no other reason. -/
def Obligations.CodeRefusals : Prop :=
  ∀ s : State,
    (∀ i r, i.encClass = .headerCode → exec i s = .refused r → r = .inputTooLong ∨ r = .outputTooLong)
    ∧ (∀ i : Instr, i.encClass = .headerCode → (exec i s = .refused .inputTooLong ↔ s.cfg.maxInLen < s.srcIn.length))
    ∧ (exec .compUncompressed s = .refused .outputTooLong ↔ ∃ d, Opens s d ∧ s.cfg.outCap < s.srcIn.length - 20)
    ∧ (exec .compLzss s = .refused .outputTooLong ↔ ∃ d, Opens s d ∧ s.cfg.outCap < (le32 d 0).toNat)
    ∧ exec .compRle s ≠ .refused .outputTooLong
    ∧ ∀ code, exec (.compUnknown code) s ≠ .refused .outputTooLong
end

