-- ==== Sys2Proof/Laws/State.lean ====
section
/-! SUPPORT. One lemma per field per named update of the state, so that no proof unfolds a record update. -/

namespace Sys2Proof.Machine

open Sys2Proof

@[simp] theorem setPrng_cfg (p : Prng) (s : State) : (setPrng p s).cfg = s.cfg := rfl
@[simp] theorem setPrng_prng (p : Prng) (s : State) : (setPrng p s).prng = p := rfl
@[simp] theorem setPrng_ck (p : Prng) (s : State) : (setPrng p s).ck = s.ck := rfl
@[simp] theorem setPrng_lz (p : Prng) (s : State) : (setPrng p s).lz = s.lz := rfl
@[simp] theorem setPrng_dataIn (p : Prng) (s : State) : (setPrng p s).dataIn = s.dataIn := rfl
@[simp] theorem setPrng_result (p : Prng) (s : State) : (setPrng p s).result = s.result := rfl
@[simp] theorem setPrng_statusCode (p : Prng) (s : State) : (setPrng p s).statusCode = s.statusCode := rfl
@[simp] theorem setPrng_errInfo (p : Prng) (s : State) : (setPrng p s).errInfo = s.errInfo := rfl
@[simp] theorem setPrng_srcIn (p : Prng) (s : State) : (setPrng p s).srcIn = s.srcIn := rfl
@[simp] theorem setPrng_out (p : Prng) (s : State) : (setPrng p s).out = s.out := rfl
@[simp] theorem setPrng_hostRead (p : Prng) (s : State) : (setPrng p s).hostRead = s.hostRead := rfl
@[simp] theorem setPrng_host (p : Prng) (s : State) : (setPrng p s).host = s.host := rfl

@[simp] theorem setChecksum_cfg (c : Checksum) (s : State) : (setChecksum c s).cfg = s.cfg := rfl
@[simp] theorem setChecksum_prng (c : Checksum) (s : State) : (setChecksum c s).prng = s.prng := rfl
@[simp] theorem setChecksum_ck (c : Checksum) (s : State) : (setChecksum c s).ck = c := rfl
@[simp] theorem setChecksum_lz (c : Checksum) (s : State) : (setChecksum c s).lz = s.lz := rfl
@[simp] theorem setChecksum_dataIn (c : Checksum) (s : State) : (setChecksum c s).dataIn = s.dataIn := rfl
@[simp] theorem setChecksum_result (c : Checksum) (s : State) : (setChecksum c s).result = s.result := rfl
@[simp] theorem setChecksum_statusCode (c : Checksum) (s : State) : (setChecksum c s).statusCode = s.statusCode := rfl
@[simp] theorem setChecksum_errInfo (c : Checksum) (s : State) : (setChecksum c s).errInfo = s.errInfo := rfl
@[simp] theorem setChecksum_srcIn (c : Checksum) (s : State) : (setChecksum c s).srcIn = s.srcIn := rfl
@[simp] theorem setChecksum_out (c : Checksum) (s : State) : (setChecksum c s).out = s.out := rfl
@[simp] theorem setChecksum_hostRead (c : Checksum) (s : State) : (setChecksum c s).hostRead = s.hostRead := rfl
@[simp] theorem setChecksum_host (c : Checksum) (s : State) : (setChecksum c s).host = s.host := rfl

@[simp] theorem setLzss_cfg (u : Lzss) (s : State) : (setLzss u s).cfg = s.cfg := rfl
@[simp] theorem setLzss_prng (u : Lzss) (s : State) : (setLzss u s).prng = s.prng := rfl
@[simp] theorem setLzss_ck (u : Lzss) (s : State) : (setLzss u s).ck = s.ck := rfl
@[simp] theorem setLzss_lz (u : Lzss) (s : State) : (setLzss u s).lz = u := rfl
@[simp] theorem setLzss_dataIn (u : Lzss) (s : State) : (setLzss u s).dataIn = s.dataIn := rfl
@[simp] theorem setLzss_result (u : Lzss) (s : State) : (setLzss u s).result = s.result := rfl
@[simp] theorem setLzss_statusCode (u : Lzss) (s : State) : (setLzss u s).statusCode = s.statusCode := rfl
@[simp] theorem setLzss_errInfo (u : Lzss) (s : State) : (setLzss u s).errInfo = s.errInfo := rfl
@[simp] theorem setLzss_srcIn (u : Lzss) (s : State) : (setLzss u s).srcIn = s.srcIn := rfl
@[simp] theorem setLzss_out (u : Lzss) (s : State) : (setLzss u s).out = s.out := rfl
@[simp] theorem setLzss_hostRead (u : Lzss) (s : State) : (setLzss u s).hostRead = s.hostRead := rfl
@[simp] theorem setLzss_host (u : Lzss) (s : State) : (setLzss u s).host = s.host := rfl

@[simp] theorem setOut_cfg (bytes : List Byte) (s : State) : (setOut bytes s).cfg = s.cfg := rfl
@[simp] theorem setOut_prng (bytes : List Byte) (s : State) : (setOut bytes s).prng = s.prng := rfl
@[simp] theorem setOut_ck (bytes : List Byte) (s : State) : (setOut bytes s).ck = s.ck := rfl
@[simp] theorem setOut_lz (bytes : List Byte) (s : State) : (setOut bytes s).lz = s.lz := rfl
@[simp] theorem setOut_dataIn (bytes : List Byte) (s : State) : (setOut bytes s).dataIn = s.dataIn := rfl
@[simp] theorem setOut_result (bytes : List Byte) (s : State) : (setOut bytes s).result = s.result := rfl
@[simp] theorem setOut_statusCode (bytes : List Byte) (s : State) : (setOut bytes s).statusCode = s.statusCode := rfl
@[simp] theorem setOut_errInfo (bytes : List Byte) (s : State) : (setOut bytes s).errInfo = s.errInfo := rfl
@[simp] theorem setOut_srcIn (bytes : List Byte) (s : State) : (setOut bytes s).srcIn = s.srcIn := rfl
@[simp] theorem setOut_out (bytes : List Byte) (s : State) : (setOut bytes s).out = bytes := rfl
@[simp] theorem setOut_hostRead (bytes : List Byte) (s : State) : (setOut bytes s).hostRead = s.hostRead := rfl
@[simp] theorem setOut_host (bytes : List Byte) (s : State) : (setOut bytes s).host = s.host := rfl

@[simp] theorem report_cfg (code : BitVec 8) (value info : Word) (s : State) : (report code value info s).cfg = s.cfg := rfl
@[simp] theorem report_prng (code : BitVec 8) (value info : Word) (s : State) : (report code value info s).prng = s.prng := rfl
@[simp] theorem report_ck (code : BitVec 8) (value info : Word) (s : State) : (report code value info s).ck = s.ck := rfl
@[simp] theorem report_lz (code : BitVec 8) (value info : Word) (s : State) : (report code value info s).lz = s.lz := rfl
@[simp] theorem report_dataIn (code : BitVec 8) (value info : Word) (s : State) : (report code value info s).dataIn = s.dataIn := rfl
@[simp] theorem report_result (code : BitVec 8) (value info : Word) (s : State) : (report code value info s).result = value := rfl
@[simp] theorem report_statusCode (code : BitVec 8) (value info : Word) (s : State) : (report code value info s).statusCode = code := rfl
@[simp] theorem report_errInfo (code : BitVec 8) (value info : Word) (s : State) : (report code value info s).errInfo = info := rfl
@[simp] theorem report_srcIn (code : BitVec 8) (value info : Word) (s : State) : (report code value info s).srcIn = s.srcIn := rfl
@[simp] theorem report_out (code : BitVec 8) (value info : Word) (s : State) : (report code value info s).out = s.out := rfl
@[simp] theorem report_hostRead (code : BitVec 8) (value info : Word) (s : State) : (report code value info s).hostRead = s.hostRead := rfl
@[simp] theorem report_host (code : BitVec 8) (value info : Word) (s : State) : (report code value info s).host = s.host := rfl

@[simp] theorem complete_cfg (value : Word) (s : State) : (complete value s).cfg = s.cfg := rfl
@[simp] theorem complete_prng (value : Word) (s : State) : (complete value s).prng = s.prng := rfl
@[simp] theorem complete_ck (value : Word) (s : State) : (complete value s).ck = s.ck := rfl
@[simp] theorem complete_lz (value : Word) (s : State) : (complete value s).lz = s.lz := rfl
@[simp] theorem complete_dataIn (value : Word) (s : State) : (complete value s).dataIn = s.dataIn := rfl
@[simp] theorem complete_result (value : Word) (s : State) : (complete value s).result = value := rfl
@[simp] theorem complete_statusCode (value : Word) (s : State) : (complete value s).statusCode = 0x00 := rfl
@[simp] theorem complete_errInfo (value : Word) (s : State) : (complete value s).errInfo = 0 := rfl
@[simp] theorem complete_srcIn (value : Word) (s : State) : (complete value s).srcIn = s.srcIn := rfl
@[simp] theorem complete_out (value : Word) (s : State) : (complete value s).out = s.out := rfl
@[simp] theorem complete_hostRead (value : Word) (s : State) : (complete value s).hostRead = s.hostRead := rfl
@[simp] theorem complete_host (value : Word) (s : State) : (complete value s).host = s.host := rfl

@[simp] theorem raiseErr_cfg (kind : ErrKind) (info : Word) (s : State) : (raiseErr kind info s).cfg = s.cfg := rfl
@[simp] theorem raiseErr_prng (kind : ErrKind) (info : Word) (s : State) : (raiseErr kind info s).prng = s.prng := rfl
@[simp] theorem raiseErr_ck (kind : ErrKind) (info : Word) (s : State) : (raiseErr kind info s).ck = s.ck := rfl
@[simp] theorem raiseErr_lz (kind : ErrKind) (info : Word) (s : State) : (raiseErr kind info s).lz = s.lz := rfl
@[simp] theorem raiseErr_dataIn (kind : ErrKind) (info : Word) (s : State) : (raiseErr kind info s).dataIn = s.dataIn := rfl
@[simp] theorem raiseErr_result (kind : ErrKind) (info : Word) (s : State) : (raiseErr kind info s).result = 0 := rfl
@[simp] theorem raiseErr_statusCode (kind : ErrKind) (info : Word) (s : State) : (raiseErr kind info s).statusCode = errCode kind := rfl
@[simp] theorem raiseErr_errInfo (kind : ErrKind) (info : Word) (s : State) : (raiseErr kind info s).errInfo = info := rfl
@[simp] theorem raiseErr_srcIn (kind : ErrKind) (info : Word) (s : State) : (raiseErr kind info s).srcIn = s.srcIn := rfl
@[simp] theorem raiseErr_out (kind : ErrKind) (info : Word) (s : State) : (raiseErr kind info s).out = s.out := rfl
@[simp] theorem raiseErr_hostRead (kind : ErrKind) (info : Word) (s : State) : (raiseErr kind info s).hostRead = s.hostRead := rfl
@[simp] theorem raiseErr_host (kind : ErrKind) (info : Word) (s : State) : (raiseErr kind info s).host = s.host := rfl

@[simp] theorem endOfStream_cfg (s : State) : (endOfStream s).cfg = s.cfg := rfl
@[simp] theorem endOfStream_prng (s : State) : (endOfStream s).prng = s.prng := rfl
@[simp] theorem endOfStream_ck (s : State) : (endOfStream s).ck = s.ck := rfl
@[simp] theorem endOfStream_lz (s : State) : (endOfStream s).lz = s.lz := rfl
@[simp] theorem endOfStream_dataIn (s : State) : (endOfStream s).dataIn = s.dataIn := rfl
@[simp] theorem endOfStream_result (s : State) : (endOfStream s).result = 0 := rfl
@[simp] theorem endOfStream_statusCode (s : State) : (endOfStream s).statusCode = 0x0A := rfl
@[simp] theorem endOfStream_errInfo (s : State) : (endOfStream s).errInfo = 0 := rfl
@[simp] theorem endOfStream_srcIn (s : State) : (endOfStream s).srcIn = s.srcIn := rfl
@[simp] theorem endOfStream_out (s : State) : (endOfStream s).out = s.out := rfl
@[simp] theorem endOfStream_hostRead (s : State) : (endOfStream s).hostRead = s.hostRead := rfl
@[simp] theorem endOfStream_host (s : State) : (endOfStream s).host = s.host := rfl

@[simp] theorem raiseIllegal_cfg (s : State) : (raiseIllegal s).cfg = s.cfg := rfl
@[simp] theorem raiseIllegal_prng (s : State) : (raiseIllegal s).prng = s.prng := rfl
@[simp] theorem raiseIllegal_ck (s : State) : (raiseIllegal s).ck = s.ck := rfl
@[simp] theorem raiseIllegal_lz (s : State) : (raiseIllegal s).lz = s.lz := rfl
@[simp] theorem raiseIllegal_dataIn (s : State) : (raiseIllegal s).dataIn = s.dataIn := rfl
@[simp] theorem raiseIllegal_result (s : State) : (raiseIllegal s).result = 0 := rfl
@[simp] theorem raiseIllegal_statusCode (s : State) : (raiseIllegal s).statusCode = 0x09 := rfl
@[simp] theorem raiseIllegal_errInfo (s : State) : (raiseIllegal s).errInfo = 0 := rfl
@[simp] theorem raiseIllegal_srcIn (s : State) : (raiseIllegal s).srcIn = s.srcIn := rfl
@[simp] theorem raiseIllegal_out (s : State) : (raiseIllegal s).out = s.out := rfl
@[simp] theorem raiseIllegal_hostRead (s : State) : (raiseIllegal s).hostRead = s.hostRead := rfl
@[simp] theorem raiseIllegal_host (s : State) : (raiseIllegal s).host = s.host := rfl

@[simp] theorem hostReads_cfg (r : BusRegister) (s : State) : (hostReads r s).cfg = s.cfg := rfl
@[simp] theorem hostReads_prng (r : BusRegister) (s : State) : (hostReads r s).prng = s.prng := rfl
@[simp] theorem hostReads_ck (r : BusRegister) (s : State) : (hostReads r s).ck = s.ck := rfl
@[simp] theorem hostReads_lz (r : BusRegister) (s : State) : (hostReads r s).lz = s.lz := rfl
@[simp] theorem hostReads_dataIn (r : BusRegister) (s : State) : (hostReads r s).dataIn = s.dataIn := rfl
@[simp] theorem hostReads_result (r : BusRegister) (s : State) : (hostReads r s).result = s.result := rfl
@[simp] theorem hostReads_statusCode (r : BusRegister) (s : State) : (hostReads r s).statusCode = s.statusCode := rfl
@[simp] theorem hostReads_errInfo (r : BusRegister) (s : State) : (hostReads r s).errInfo = s.errInfo := rfl
@[simp] theorem hostReads_srcIn (r : BusRegister) (s : State) : (hostReads r s).srcIn = s.srcIn := rfl
@[simp] theorem hostReads_out (r : BusRegister) (s : State) : (hostReads r s).out = s.out := rfl
@[simp] theorem hostReads_hostRead (r : BusRegister) (s : State) : (hostReads r s).hostRead = busRead r s := rfl
@[simp] theorem hostReads_host (r : BusRegister) (s : State) : (hostReads r s).host = s.host := rfl

@[simp] theorem hostPresents_cfg (bytes : List Byte) (s : State) : (hostPresents bytes s).cfg = s.cfg := rfl
@[simp] theorem hostPresents_prng (bytes : List Byte) (s : State) : (hostPresents bytes s).prng = s.prng := rfl
@[simp] theorem hostPresents_ck (bytes : List Byte) (s : State) : (hostPresents bytes s).ck = s.ck := rfl
@[simp] theorem hostPresents_lz (bytes : List Byte) (s : State) : (hostPresents bytes s).lz = s.lz := rfl
@[simp] theorem hostPresents_dataIn (bytes : List Byte) (s : State) : (hostPresents bytes s).dataIn = s.dataIn := rfl
@[simp] theorem hostPresents_result (bytes : List Byte) (s : State) : (hostPresents bytes s).result = s.result := rfl
@[simp] theorem hostPresents_statusCode (bytes : List Byte) (s : State) : (hostPresents bytes s).statusCode = s.statusCode := rfl
@[simp] theorem hostPresents_errInfo (bytes : List Byte) (s : State) : (hostPresents bytes s).errInfo = s.errInfo := rfl
@[simp] theorem hostPresents_srcIn (bytes : List Byte) (s : State) : (hostPresents bytes s).srcIn = bytes := rfl
@[simp] theorem hostPresents_out (bytes : List Byte) (s : State) : (hostPresents bytes s).out = s.out := rfl
@[simp] theorem hostPresents_hostRead (bytes : List Byte) (s : State) : (hostPresents bytes s).hostRead = s.hostRead := rfl
@[simp] theorem hostPresents_host (bytes : List Byte) (s : State) : (hostPresents bytes s).host = s.host := rfl

@[simp] theorem resetBlock_cfg (s : State) : (resetBlock s).cfg = s.cfg := rfl
@[simp] theorem resetBlock_prng (s : State) : (resetBlock s).prng = Prng.reset := rfl
@[simp] theorem resetBlock_ck (s : State) : (resetBlock s).ck = Checksum.reset := rfl
@[simp] theorem resetBlock_lz (s : State) : (resetBlock s).lz = Lzss.reset := rfl
@[simp] theorem resetBlock_dataIn (s : State) : (resetBlock s).dataIn = 0 := rfl
@[simp] theorem resetBlock_result (s : State) : (resetBlock s).result = 0 := rfl
@[simp] theorem resetBlock_statusCode (s : State) : (resetBlock s).statusCode = 0 := rfl
@[simp] theorem resetBlock_errInfo (s : State) : (resetBlock s).errInfo = 0 := rfl
@[simp] theorem resetBlock_srcIn (s : State) : (resetBlock s).srcIn = s.srcIn := rfl
@[simp] theorem resetBlock_out (s : State) : (resetBlock s).out = [] := rfl
@[simp] theorem resetBlock_hostRead (s : State) : (resetBlock s).hostRead = s.hostRead := rfl
@[simp] theorem resetBlock_host (s : State) : (resetBlock s).host = s.host := rfl

@[simp] theorem resetWith_cfg (cfg : Config) : (State.resetWith cfg).cfg = cfg := rfl
@[simp] theorem resetWith_prng (cfg : Config) : (State.resetWith cfg).prng = Prng.reset := rfl
@[simp] theorem resetWith_ck (cfg : Config) : (State.resetWith cfg).ck = Checksum.reset := rfl
@[simp] theorem resetWith_lz (cfg : Config) : (State.resetWith cfg).lz = Lzss.reset := rfl
@[simp] theorem resetWith_dataIn (cfg : Config) : (State.resetWith cfg).dataIn = 0 := rfl
@[simp] theorem resetWith_result (cfg : Config) : (State.resetWith cfg).result = 0 := rfl
@[simp] theorem resetWith_statusCode (cfg : Config) : (State.resetWith cfg).statusCode = 0 := rfl
@[simp] theorem resetWith_errInfo (cfg : Config) : (State.resetWith cfg).errInfo = 0 := rfl
@[simp] theorem resetWith_srcIn (cfg : Config) : (State.resetWith cfg).srcIn = [] := rfl
@[simp] theorem resetWith_out (cfg : Config) : (State.resetWith cfg).out = [] := rfl
@[simp] theorem resetWith_hostRead (cfg : Config) : (State.resetWith cfg).hostRead = 0 := rfl
@[simp] theorem resetWith_host (cfg : Config) : (State.resetWith cfg).host = [] := rfl

@[simp] theorem storeByte_window (b : Byte) (u : Lzss) : (storeByte b u).window = Mem.write u.window u.wp.toNat b := rfl
@[simp] theorem storeByte_wp (b : Byte) (u : Lzss) : (storeByte b u).wp = u.wp + 1 := rfl
@[simp] theorem storeByte_rc (b : Byte) (u : Lzss) : (storeByte b u).rc = u.rc := rfl
@[simp] theorem storeByte_rem (b : Byte) (u : Lzss) : (storeByte b u).rem = u.rem := rfl
@[simp] theorem storeByte_src (b : Byte) (u : Lzss) : (storeByte b u).src = u.src := rfl
@[simp] theorem storeByte_bitpos (b : Byte) (u : Lzss) : (storeByte b u).bitpos = u.bitpos := rfl
@[simp] theorem storeByte_limit (b : Byte) (u : Lzss) : (storeByte b u).limit = u.limit := rfl
@[simp] theorem storeByte_outCount (b : Byte) (u : Lzss) : (storeByte b u).outCount = u.outCount := rfl

@[simp] theorem copyByte_byte (u : Lzss) : (copyByte u).1 = windowByte u u.rc := rfl
@[simp] theorem copyByte_window (u : Lzss) : (copyByte u).2.window = Mem.write u.window u.wp.toNat (windowByte u u.rc) := rfl
@[simp] theorem copyByte_wp (u : Lzss) : (copyByte u).2.wp = u.wp + 1 := rfl
@[simp] theorem copyByte_rc (u : Lzss) : (copyByte u).2.rc = u.rc + 1 := rfl
@[simp] theorem copyByte_rem (u : Lzss) : (copyByte u).2.rem = u.rem - 1 := rfl
@[simp] theorem copyByte_src (u : Lzss) : (copyByte u).2.src = u.src := rfl
@[simp] theorem copyByte_bitpos (u : Lzss) : (copyByte u).2.bitpos = u.bitpos := rfl
@[simp] theorem copyByte_limit (u : Lzss) : (copyByte u).2.limit = u.limit := rfl
@[simp] theorem copyByte_outCount (u : Lzss) : (copyByte u).2.outCount = u.outCount := rfl

@[simp] theorem freshLzss_window (src : List Byte) (limit : Word) : (freshLzss src limit).window = [] := rfl
@[simp] theorem freshLzss_wp (src : List Byte) (limit : Word) : (freshLzss src limit).wp = 1 := rfl
@[simp] theorem freshLzss_rc (src : List Byte) (limit : Word) : (freshLzss src limit).rc = 0 := rfl
@[simp] theorem freshLzss_rem (src : List Byte) (limit : Word) : (freshLzss src limit).rem = 0 := rfl
@[simp] theorem freshLzss_src (src : List Byte) (limit : Word) : (freshLzss src limit).src = src := rfl
@[simp] theorem freshLzss_bitpos (src : List Byte) (limit : Word) : (freshLzss src limit).bitpos = 0 := rfl
@[simp] theorem freshLzss_limit (src : List Byte) (limit : Word) : (freshLzss src limit).limit = limit := rfl
@[simp] theorem freshLzss_outCount (src : List Byte) (limit : Word) : (freshLzss src limit).outCount = 0 := rfl

@[simp] theorem constructPrng_i (seed : Word) : (constructPrng seed).i = 0 := rfl
@[simp] theorem constructPrng_j (seed : Word) : (constructPrng seed).j = 103 := rfl
@[simp] theorem constructPrng_seeded (seed : Word) : (constructPrng seed).seeded = true := rfl

@[simp] theorem drawWord_value (p : Prng) : (drawWord p).1 = p.table[p.i] ^^^ p.table[p.j] := rfl
@[simp] theorem drawWord_table (p : Prng) : (drawWord p).2.table = p.table.set p.i (p.table[p.i] ^^^ p.table[p.j]) := rfl
@[simp] theorem drawWord_i (p : Prng) : (drawWord p).2.i = p.i + 1 := rfl
@[simp] theorem drawWord_j (p : Prng) : (drawWord p).2.j = p.j + 1 := rfl
@[simp] theorem drawWord_seeded (p : Prng) : (drawWord p).2.seeded = p.seeded := rfl

@[simp] theorem fold_sum (w : Word) (c : Checksum) : (fold w c).sum = if c.odd then c.sum + w else c.sum ^^^ w := rfl
@[simp] theorem fold_odd (w : Word) (c : Checksum) : (fold w c).odd = !c.odd := rfl
@[simp] theorem fold_pend (w : Word) (c : Checksum) : (fold w c).pend = c.pend := rfl
@[simp] theorem fold_pendN (w : Word) (c : Checksum) : (fold w c).pendN = c.pendN := rfl
@[simp] theorem ckClear_sum (c : Checksum) : (ckClear c).sum = 0 := rfl
@[simp] theorem ckClear_odd (c : Checksum) : (ckClear c).odd = false := rfl
@[simp] theorem ckClear_pend (c : Checksum) : (ckClear c).pend = c.pend := rfl
@[simp] theorem ckClear_pendN (c : Checksum) : (ckClear c).pendN = 0 := rfl

@[simp] theorem consumeBits_window (n : Nat) (u : Lzss) : (consumeBits n u).window = u.window := rfl
@[simp] theorem consumeBits_wp (n : Nat) (u : Lzss) : (consumeBits n u).wp = u.wp := rfl
@[simp] theorem consumeBits_rc (n : Nat) (u : Lzss) : (consumeBits n u).rc = u.rc := rfl
@[simp] theorem consumeBits_rem (n : Nat) (u : Lzss) : (consumeBits n u).rem = u.rem := rfl
@[simp] theorem consumeBits_src (n : Nat) (u : Lzss) : (consumeBits n u).src = u.src := rfl
@[simp] theorem consumeBits_bitpos (n : Nat) (u : Lzss) : (consumeBits n u).bitpos = u.bitpos + n := rfl
@[simp] theorem consumeBits_limit (n : Nat) (u : Lzss) : (consumeBits n u).limit = u.limit := rfl
@[simp] theorem consumeBits_outCount (n : Nat) (u : Lzss) : (consumeBits n u).outCount = u.outCount := rfl

@[simp] theorem startCopy_window (offset : BitVec 12) (lengthField : BitVec 4) (u : Lzss) : (startCopy offset lengthField u).window = u.window := rfl
@[simp] theorem startCopy_wp (offset : BitVec 12) (lengthField : BitVec 4) (u : Lzss) : (startCopy offset lengthField u).wp = u.wp := rfl
@[simp] theorem startCopy_rc (offset : BitVec 12) (lengthField : BitVec 4) (u : Lzss) : (startCopy offset lengthField u).rc = offset := rfl
@[simp] theorem startCopy_rem (offset : BitVec 12) (lengthField : BitVec 4) (u : Lzss) : (startCopy offset lengthField u).rem = copyLength lengthField := rfl
@[simp] theorem startCopy_src (offset : BitVec 12) (lengthField : BitVec 4) (u : Lzss) : (startCopy offset lengthField u).src = u.src := rfl
@[simp] theorem startCopy_bitpos (offset : BitVec 12) (lengthField : BitVec 4) (u : Lzss) : (startCopy offset lengthField u).bitpos = u.bitpos := rfl
@[simp] theorem startCopy_limit (offset : BitVec 12) (lengthField : BitVec 4) (u : Lzss) : (startCopy offset lengthField u).limit = u.limit := rfl
@[simp] theorem startCopy_outCount (offset : BitVec 12) (lengthField : BitVec 4) (u : Lzss) : (startCopy offset lengthField u).outCount = u.outCount := rfl

@[simp] theorem countByte_window (u : Lzss) : (countByte u).window = u.window := rfl
@[simp] theorem countByte_wp (u : Lzss) : (countByte u).wp = u.wp := rfl
@[simp] theorem countByte_rc (u : Lzss) : (countByte u).rc = u.rc := rfl
@[simp] theorem countByte_rem (u : Lzss) : (countByte u).rem = u.rem := rfl
@[simp] theorem countByte_src (u : Lzss) : (countByte u).src = u.src := rfl
@[simp] theorem countByte_bitpos (u : Lzss) : (countByte u).bitpos = u.bitpos := rfl
@[simp] theorem countByte_limit (u : Lzss) : (countByte u).limit = u.limit := rfl
@[simp] theorem countByte_outCount (u : Lzss) : (countByte u).outCount = u.outCount + 1 := rfl

@[simp] theorem completeChunk_sum (b : Byte) (c : Checksum) :
    (completeChunk b c).sum = (fold (le32Of c.pend[0] c.pend[1] c.pend[2] b) c).sum := rfl
@[simp] theorem completeChunk_odd (b : Byte) (c : Checksum) :
    (completeChunk b c).odd = !c.odd := rfl
@[simp] theorem completeChunk_pend (b : Byte) (c : Checksum) :
    (completeChunk b c).pend = c.pend := rfl
@[simp] theorem completeChunk_pendN (b : Byte) (c : Checksum) :
    (completeChunk b c).pendN = 0 := rfl
@[simp] theorem pendByte_sum (b : Byte) (c : Checksum) : (pendByte b c).sum = c.sum := rfl
@[simp] theorem pendByte_odd (b : Byte) (c : Checksum) : (pendByte b c).odd = c.odd := rfl
@[simp] theorem pendByte_pend (b : Byte) (c : Checksum) : (pendByte b c).pend = c.pend.setIfInBounds c.pendN.toNat b := rfl
@[simp] theorem pendByte_pendN (b : Byte) (c : Checksum) : (pendByte b c).pendN = c.pendN + 1 := rfl

@[simp] theorem operandWord_eq (s : State) : operandWord s = s.dataIn := rfl
@[simp] theorem operandByte_eq (s : State) : operandByte s = low8 s.dataIn := rfl
@[simp] theorem operandBytes_eq (s : State) : operandBytes s = s.srcIn := rfl

end Sys2Proof.Machine
end

