-- ==== Sys2Proof/Laws/Decode.lean ====
section
/-! SUPPORT. What each decoding function can answer. -/

namespace Sys2Proof

theorem streamBit_isSome {src : List Byte} {k : Nat} : (streamBit src k).isSome ↔ k < 8 * src.length := by
  unfold streamBit
  cases h : src[k / 8]? with
  | none => simp at h; simp; omega
  | some b => obtain ⟨h, -⟩ := List.getElem?_eq_some_iff.mp h; simp; omega

theorem streamBit_eq_none {src : List Byte} {k : Nat} : streamBit src k = none ↔ 8 * src.length ≤ k := by
  rw [← Option.not_isSome_iff_eq_none, streamBit_isSome, Nat.not_lt]

theorem readBitsFrom_isSome {src : List Byte} {n pos v : Nat} (h : pos + n ≤ 8 * src.length) :
    (readBitsFrom src n pos v).isSome := by
  induction n generalizing pos v with
  | zero => rfl
  | succ n ih =>
    obtain ⟨b, hb⟩ := Option.isSome_iff_exists.mp (streamBit_isSome.mpr (show pos < 8 * src.length by omega))
    simp only [readBitsFrom, hb]
    exact ih (by omega)

theorem readBitsFrom_inside {src : List Byte} {n pos v r : Nat} (hp : pos ≤ 8 * src.length)
    (h : readBitsFrom src n pos v = some r) : pos + n ≤ 8 * src.length := by
  induction n generalizing pos v with
  | zero => exact hp
  | succ n ih =>
    simp only [readBitsFrom] at h
    split at h
    · next b hb =>
      have := streamBit_isSome.mp (by rw [hb]; rfl)
      have := ih (by omega) h
      omega
    · cases h

/-- `ReadBits(n)` answers exactly when `n` bits remain (R151). -/
theorem readBits_isSome {src : List Byte} {n pos : Nat} (hp : pos ≤ 8 * src.length) :
    (readBits src n pos).isSome ↔ pos + n ≤ 8 * src.length := by
  constructor
  · intro h
    obtain ⟨r, hr⟩ := Option.isSome_iff_exists.mp h
    exact readBitsFrom_inside hp hr
  · exact readBitsFrom_isSome

/-- A decoded token lies inside the stream. -/
theorem decodeToken_inside {src : List Byte} {pos : Nat} {t : Token} (h : decodeToken src pos = .ok t) :
    pos + tokenWidth t ≤ 8 * src.length := by
  unfold decodeToken at h
  split at h
  · cases h
  · next hb =>
    have hpos := streamBit_isSome.mp (by rw [hb]; rfl)
    split at h
    · next b hr =>
      cases h
      have := (readBits_isSome (src := src) (n := 8) (pos := pos + 1) (by omega)).mp (by rw [hr]; rfl)
      simpa [tokenWidth] using (by omega : pos + 9 ≤ 8 * src.length)
    · cases h
  · next hb =>
    have hpos := streamBit_isSome.mp (by rw [hb]; rfl)
    split at h
    · next o l ho hl =>
      cases h
      have h1 := (readBits_isSome (src := src) (n := 12) (pos := pos + 1) (by omega)).mp (by rw [ho]; rfl)
      have := (readBits_isSome h1).mp (by rw [hl]; rfl)
      simpa [tokenWidth] using (by omega : pos + 17 ≤ 8 * src.length)
    · cases h

/-- The words that are commands, each with its command (R81). -/
theorem decodeCommand_ok {w : Word} {i : Instr} (h : decodeCommand w = .ok i) :
    (⟨w, i⟩ : CommandRow) ∈ commandRows := by
  unfold decodeCommand at h
  split at h
  · next r hr =>
    cases h
    have hw : r.word = w := by simpa using List.find?_some hr
    subst hw
    exact List.mem_of_find?_eq_some hr
  · split at h <;> cases h

theorem compressionOf_cases (code : Word) :
    (code = 0 ∧ compressionOf code = .uncompressed) ∨ (code = 1 ∧ compressionOf code = .rle)
      ∨ (code = 2 ∧ compressionOf code = .lzss)
      ∨ ((code ≠ 0 ∧ code ≠ 1 ∧ code ≠ 2) ∧ compressionOf code = .unknown code) := by
  unfold compressionOf
  by_cases h0 : code = 0
  · exact .inl ⟨h0, if_pos h0⟩
  · rw [if_neg h0]
    by_cases h1 : code = 1
    · exact .inr (.inl ⟨h1, if_pos h1⟩)
    · rw [if_neg h1]
      by_cases h2 : code = 2
      · exact .inr (.inr (.inl ⟨h2, if_pos h2⟩))
      · exact .inr (.inr (.inr ⟨⟨h0, h1, h2⟩, if_neg h2⟩))

end Sys2Proof
end

