-- ==== Sys2Proof/Laws/Memory.lean ====
section
/-! SUPPORT. The window's memory: a read after a write, and the canonical form every memory operation keeps. -/

namespace Sys2Proof.Machine

open Sys2Proof

theorem Mem.wfFrom_cons {lo k : Nat} {b : Byte} {m : List Host.Cell} :
    Mem.wfFrom lo ((k, b) :: m) = true ↔
      lo ≤ k ∧ k < windowSize ∧ b ≠ Mem.unlisted ∧ Mem.wfFrom (k + 1) m = true := by
  simp [Mem.wfFrom, and_assoc]

theorem Mem.wfFrom_mono {lo lo' : Nat} {m : List Host.Cell} (h : lo' ≤ lo) (hm : Mem.wfFrom lo m = true) :
    Mem.wfFrom lo' m = true := by
  cases m with
  | nil => rfl
  | cons c m =>
    obtain ⟨k, b⟩ := c
    rw [Mem.wfFrom_cons] at hm ⊢
    exact ⟨h.trans hm.1, hm.2⟩

/-- Below its least address a canonical memory lists nothing. -/
theorem Mem.read_below {lo a : Nat} {m : List Host.Cell} (hm : Mem.wfFrom lo m = true) (ha : a < lo) :
    Mem.read m a = Mem.unlisted := by
  induction m generalizing lo with
  | nil => rfl
  | cons c m ih =>
    obtain ⟨k, b⟩ := c
    rw [Mem.wfFrom_cons] at hm
    rw [Mem.read, if_neg (by omega)]
    exact ih hm.2.2.2 (by omega)

theorem Mem.read_write_same {lo a : Nat} {v : Byte} {m : List Host.Cell} (hm : Mem.wfFrom lo m = true) :
    Mem.read (Mem.write m a v) a = v := by
  induction m generalizing lo with
  | nil =>
    by_cases hv : v = Mem.unlisted
    · rw [Mem.write, if_pos hv]; exact hv.symm
    · simp [Mem.write, if_neg hv, Mem.read]
  | cons c m ih =>
    obtain ⟨k, b⟩ := c
    have hm' := Mem.wfFrom_cons.mp hm
    by_cases hv : v = Mem.unlisted
    · rw [Mem.write]
      simp only [if_pos hv]
      split
      · exact (Mem.read_below (lo := k) (Mem.wfFrom_cons.mpr ⟨le_refl k, hm'.2⟩) (by omega)).trans hv.symm
      · split
        · exact (Mem.read_below hm'.2.2.2 (by omega)).trans hv.symm
        · rw [Mem.read, if_neg (by omega)]
          exact ih hm'.2.2.2
    · rw [Mem.write]
      simp only [if_neg hv]
      split
      · simp [Mem.read]
      · split
        · simp [Mem.read]
        · rw [Mem.read, if_neg (by omega)]
          exact ih hm'.2.2.2

theorem Mem.read_write_other {a a' : Nat} {v : Byte} {m : List Host.Cell} (h : a' ≠ a) :
    Mem.read (Mem.write m a v) a' = Mem.read m a' := by
  induction m with
  | nil =>
    rw [Mem.write]
    split
    · rfl
    · simp [Mem.read, Ne.symm h]
  | cons c m ih =>
    obtain ⟨k, b⟩ := c
    rw [Mem.write]
    split
    · split
      · rfl
      · rw [Mem.read, if_neg (Ne.symm h)]
    · split
      · next hk =>
        split
        · rw [Mem.read, if_neg (by omega)]
        · rw [Mem.read, if_neg (Ne.symm h), Mem.read, if_neg (by omega)]
      · rw [Mem.read, Mem.read, ih]

theorem Mem.write_wfFrom {lo a : Nat} {v : Byte} {m : List Host.Cell} (hm : Mem.wfFrom lo m = true)
    (hlo : lo ≤ a) (ha : a < windowSize) : Mem.wfFrom lo (Mem.write m a v) = true := by
  induction m generalizing lo with
  | nil =>
    rw [Mem.write]
    split
    · rfl
    · next hv => exact Mem.wfFrom_cons.mpr ⟨hlo, ha, hv, rfl⟩
  | cons c m ih =>
    obtain ⟨k, b⟩ := c
    have hm' := Mem.wfFrom_cons.mp hm
    rw [Mem.write]
    split
    · split
      · exact hm
      · next hv => exact Mem.wfFrom_cons.mpr ⟨hlo, ha, hv, Mem.wfFrom_cons.mpr ⟨by omega, hm'.2⟩⟩
    · split
      · split
        · exact Mem.wfFrom_mono (by omega) hm'.2.2.2
        · next hv => exact Mem.wfFrom_cons.mpr ⟨hlo, ha, hv, by simpa only [‹a = k›] using hm'.2.2.2⟩
      · exact Mem.wfFrom_cons.mpr ⟨hm'.1, hm'.2.1, hm'.2.2.1, ih hm'.2.2.2 (by omega)⟩

/-- A write inside the window keeps the canonical form. -/
theorem Mem.write_wf {a : Nat} {v : Byte} {m : List Host.Cell} (hm : Mem.wf m = true) (ha : a < windowSize) :
    Mem.wf (Mem.write m a v) = true :=
  Mem.write_wfFrom hm (Nat.zero_le a) ha

/-- Two canonical memories that read alike at every address are equal lists. -/
theorem Mem.ext_of_wfFrom {lo : Nat} {m m' : List Host.Cell} (hm : Mem.wfFrom lo m = true)
    (hm' : Mem.wfFrom lo m' = true) (h : ∀ a, Mem.read m a = Mem.read m' a) : m = m' := by
  induction m generalizing lo m' with
  | nil =>
    cases m' with
    | nil => rfl
    | cons c' m' =>
      obtain ⟨k', b'⟩ := c'
      have := h k'
      simp only [Mem.read, if_true] at this
      exact absurd this.symm (Mem.wfFrom_cons.mp hm').2.2.1
  | cons c m ih =>
    obtain ⟨k, b⟩ := c
    have w := Mem.wfFrom_cons.mp hm
    cases m' with
    | nil =>
      have := h k
      simp only [Mem.read, if_true] at this
      exact absurd this w.2.2.1
    | cons c' m' =>
      obtain ⟨k', b'⟩ := c'
      have w' := Mem.wfFrom_cons.mp hm'
      have hk : k = k' := by
        rcases Nat.lt_trichotomy k k' with hlt | heq | hgt
        · have := h k
          rw [Mem.read_below (lo := k') (Mem.wfFrom_cons.mpr ⟨le_refl k', w'.2⟩) hlt] at this
          simp only [Mem.read, if_true] at this
          exact absurd this w.2.2.1
        · exact heq
        · have := h k'
          rw [Mem.read_below (lo := k) (Mem.wfFrom_cons.mpr ⟨le_refl k, w.2⟩) hgt] at this
          simp only [Mem.read, if_true] at this
          exact absurd this.symm w'.2.2.1
      subst hk
      have hb : b = b' := by simpa [Mem.read] using h k
      subst hb
      have : m = m' := ih w.2.2.2 w'.2.2.2 fun a => by
        by_cases ha : k = a
        · subst ha
          rw [Mem.read_below w.2.2.2 (by omega), Mem.read_below w'.2.2.2 (by omega)]
        · simpa [Mem.read, ha] using h a
      rw [this]

theorem resetWith_window_wf (cfg : Config) : Mem.wf (State.resetWith cfg).lz.window = true := rfl

theorem freshLzss_window_wf (src : List Byte) (limit : Word) : Mem.wf (freshLzss src limit).window = true := rfl

theorem storeByte_window_wf {b : Byte} {u : Lzss} (h : Mem.wf u.window = true) :
    Mem.wf (storeByte b u).window = true :=
  Mem.write_wf h (by have := u.wp.isLt; simpa using this)

theorem copyByte_window_wf {u : Lzss} (h : Mem.wf u.window = true) : Mem.wf (copyByte u).2.window = true :=
  storeByte_window_wf h

/-- What a store leaves at each window address (spec/20_memory.md R63). -/
theorem windowByte_storeByte {b : Byte} {u : Lzss} (h : Mem.wf u.window = true) (a : BitVec 12) :
    windowByte (storeByte b u) a = if a = u.wp then b else windowByte u a := by
  unfold windowByte
  split
  · next ha => subst ha; exact Mem.read_write_same h
  · next ha => exact Mem.read_write_other (fun e => ha (BitVec.eq_of_toNat_eq e))

end Sys2Proof.Machine
end

