-- ==== Sys2Proof/Laws/Ops.lean ====
section
/-! SUPPORT. For each shared operation, everything it can do, said once. -/

namespace Sys2Proof.Machine

open Sys2Proof

/-- PRNG_NEXT, DEOB_WORD and DEOB_BYTE: the guard of R23. -/
theorem drawAnd_cases (value : Word → Word) (s : State) :
    (s.prng.seeded = true ∧
        drawAnd value s = complete (value (drawWord s.prng).1) (setPrng (drawWord s.prng).2 s)) ∨
      (s.prng.seeded = false ∧ drawAnd value s = raiseErr .notSeeded 0 s) := by
  unfold drawAnd ifSeeded
  cases s.prng.seeded <;> simp

/-- CK_BYTE's two cases (R137). -/
theorem ckAppend_cases (b : Byte) (c : Checksum) :
    (c.pendN = 3 ∧ ckAppend b c = completeChunk b c) ∨
      (c.pendN ≠ 3 ∧ ckAppend b c = pendByte b c) := by
  unfold ckAppend
  split
  · exact .inl ⟨‹_›, rfl⟩
  · exact .inr ⟨‹_›, rfl⟩

/-- The three ends of a pull (R157, R158). -/
theorem pullWith_cases (stepUnit : Lzss → Option (Byte × Lzss)) (s : State) :
    (s.lz.outCount = s.lz.limit ∧ pullWith stepUnit s = endOfStream s) ∨
      (s.lz.outCount ≠ s.lz.limit ∧ stepUnit s.lz = none ∧
        pullWith stepUnit s = raiseErr .prematureEnd s.lz.outCount s) ∨
      (s.lz.outCount ≠ s.lz.limit ∧ ∃ b u, stepUnit s.lz = some (b, u) ∧
        pullWith stepUnit s = complete (zext32 b) (setLzss (countByte u) s)) := by
  unfold pullWith
  split
  · exact .inl ⟨‹_›, rfl⟩
  · cases h : stepUnit s.lz with
    | none => exact .inr (.inl ⟨‹_›, rfl, rfl⟩)
    | some p => exact .inr (.inr ⟨‹_›, p.1, p.2, rfl, rfl⟩)

/-- A token that does not fit runs into the end of the stream. -/
theorem runToken_eq_none {t : Token} {u : Lzss} :
    runToken t u = none ↔ 8 * u.src.length < u.bitpos + tokenWidth t := by
  unfold runToken
  split
  · simp [*]
  · cases t <;> simp [*]

/-- A LIT that fits runs (R153). -/
theorem runToken_lit {b : Byte} {u : Lzss} (h : u.bitpos + 9 ≤ 8 * u.src.length) :
    runToken (.lit b) u = some (b, storeByte b (consumeBits 9 u)) :=
  if_neg (Nat.not_lt.mpr h)

/-- A COPY that fits runs (R154). -/
theorem runToken_copy {offset : BitVec 12} {lengthField : BitVec 4} {u : Lzss}
    (h : u.bitpos + 17 ≤ 8 * u.src.length) :
    runToken (.copy offset lengthField) u
      = some (copyByte (startCopy offset lengthField (consumeBits 17 u))) :=
  if_neg (Nat.not_lt.mpr h)

/-- One decoding step: a pending copy's next byte, the token at `bitpos`, or the end of the stream (R152). -/
theorem lzStep_cases (u : Lzss) :
    (u.rem ≠ 0 ∧ lzStep u = some (copyByte u)) ∨
      (u.rem = 0 ∧ ∃ t, decodeToken u.src u.bitpos = .ok t ∧ lzStep u = runToken t u) ∨
      (u.rem = 0 ∧ (∃ e, decodeToken u.src u.bitpos = .error e) ∧ lzStep u = none) := by
  unfold lzStep
  split
  · cases h : decodeToken u.src u.bitpos with
    | ok t => exact .inr (.inl ⟨‹_›, t, rfl, rfl⟩)
    | error e => exact .inr (.inr ⟨‹_›, ⟨e, rfl⟩, rfl⟩)
  · exact .inl ⟨‹_›, rfl⟩

/-- What DECODE's step 3 can answer (R184 to R187, R213). -/
theorem finish_cases (c : Compression) (h : Header) (payload : List Byte) (s : State) :
    finish c h payload s = .refused .outputTooLong ∨
      (∃ bytes, finish c h payload s = .next (complete (BitVec.ofNat 32 bytes.length) (setOut bytes s))) ∨
      ∃ e : Err, finish c h payload s = .next (raiseErr e.kind e.info (setOut [] s)) := by
  cases c with
  | uncompressed =>
    simp only [finish, finishUncompressed, deliver]
    split
    · exact .inl rfl
    · exact .inr (.inl ⟨payload, rfl⟩)
  | rle => exact .inr (.inr ⟨⟨.compressionNotSupported, 0⟩, rfl⟩)
  | lzss =>
    simp only [finish, finishLzss, deliver, failDecode]
    split
    · exact .inl rfl
    · split
      · next e _ => exact .inr (.inr ⟨e, rfl⟩)
      · next bytes _ =>
        split
        · exact .inr (.inl ⟨bytes, rfl⟩)
        · exact .inr (.inr ⟨⟨.decompressChecksumNonMatch, 0⟩, rfl⟩)
  | unknown _ => exact .inr (.inr ⟨⟨.invalidCompressionType, 0⟩, rfl⟩)

/-- What DECODE and the compression codes can answer: a refusal R213 asks for, a delivered output, or an error. -/
theorem decodeWith_cases (choose : Word → Compression) (s : State) :
    (s.cfg.maxInLen < s.srcIn.length ∧ decodeWith choose s = .refused .inputTooLong) ∨
      decodeWith choose s = .refused .outputTooLong ∨
      (∃ bytes, decodeWith choose s = .next (complete (BitVec.ofNat 32 bytes.length) (setOut bytes s))) ∨
      ∃ e : Err, decodeWith choose s = .next (raiseErr e.kind e.info (setOut [] s)) := by
  unfold decodeWith operandBytes
  split
  · exact .inl ⟨‹_›, rfl⟩
  · split
    · next e _ => exact .inr (.inr (.inr ⟨e, rfl⟩))
    · next h payload _ => exact .inr (finish_cases _ h payload s)

/-- What serving one host access can do (R34, R82, R230). -/
theorem serve_cases (e : HostEvent) (s : State) :
    (∃ w i, e = .write 0x00 w ∧ decodeCommand w = .ok i ∧ serve e s = exec i s) ∨
      (∃ w r, e = .write 0x00 w ∧ decodeCommand w = .error r ∧ serve e s = .next (raiseIllegal s)) ∨
      (∃ offset value r, e = .write offset value ∧ busRegister offset = some r ∧ r ≠ .cmd ∧
        serve e s = .next (busWrite r value s)) ∨
      (∃ offset r, e = .read offset ∧ busRegister offset = some r ∧ serve e s = .next (hostReads r s)) ∨
      (∃ bytes, e = .present bytes ∧ serve e s = .next (hostPresents bytes s)) ∨
      (e = .reset ∧ serve e s = .next (resetBlock s)) ∨
      ∃ offset, busRegister offset = none ∧ serve e s = .fault (.noRegisterAt offset) := by
  cases e with
  | write offset value =>
    cases hr : busRegister offset with
    | none => exact .inr (.inr (.inr (.inr (.inr (.inr ⟨offset, hr, by simp [serve, hr]⟩)))))
    | some r =>
      by_cases hc : r = .cmd
      · subst hc
        have ho : offset = 0x00 := by
          unfold busRegister at hr
          by_cases h : offset = 0x00
          · exact h
          · simp only [if_neg h] at hr
            split at hr <;> first | cases hr | skip
            split at hr <;> first | cases hr | skip
            split at hr <;> first | cases hr | skip
            split at hr <;> first | cases hr | skip
            split at hr <;> cases hr
        subst ho
        cases hd : decodeCommand value with
        | ok i => exact .inl ⟨value, i, rfl, hd, by show runCommand value s = _; rw [runCommand, hd]⟩
        | error r => exact .inr (.inl ⟨value, r, rfl, hd, by show runCommand value s = _; rw [runCommand, hd]⟩)
      · refine .inr (.inr (.inl ⟨offset, value, r, rfl, hr, hc, ?_⟩))
        cases r <;> first | exact absurd rfl hc | simp [serve, hr]
  | read offset =>
    cases hr : busRegister offset with
    | none => exact .inr (.inr (.inr (.inr (.inr (.inr ⟨offset, hr, by simp [serve, hr]⟩)))))
    | some r => exact .inr (.inr (.inr (.inl ⟨offset, r, rfl, hr, by simp [serve, hr]⟩)))
  | present bytes => exact .inr (.inr (.inr (.inr (.inl ⟨bytes, rfl, rfl⟩))))
  | reset => exact .inr (.inr (.inr (.inr (.inr (.inl ⟨rfl, rfl⟩)))))

/-- The whole of a step (R5, R231). -/
theorem step_cases (s : State) :
    (s.host = [] ∧ step s = .next s) ∨
      ∃ e rest, s.host = e :: rest ∧ step s = serve e { s with host := rest } := by
  unfold step hostStep
  cases h : s.host with
  | nil => exact .inl ⟨rfl, rfl⟩
  | cons e rest => exact .inr ⟨e, rest, rfl, rfl⟩

end Sys2Proof.Machine
end

