-- ==== Sys2Proof/Laws/Orchestrator.lean ====
section
/-! SUPPORT. What DECODE's steps answer, each said once (spec/44_orchestrator.md R180 to R187). -/

namespace Sys2Proof.Machine

open Sys2Proof Sys2Proof.Safety

/-- Deobfuscation keeps the length (R120). -/
theorem deobBytes_length : ∀ (bytes : List Byte) (p : Prng), (deobBytes bytes p).1.length = bytes.length
  | b0 :: b1 :: b2 :: b3 :: rest, p => by simp [deobBytes, bytesLe, deobBytes_length rest]
  | [b0, b1, b2], p => by simp [deobBytes]
  | [b0, b1], p => by simp [deobBytes]
  | [b0], p => by simp [deobBytes]
  | [], p => by simp [deobBytes]

theorem deobfuscate_ok {raw : List Byte} (h : 4 ≤ raw.length) :
    deobfuscate raw = .ok (deobBytes (raw.drop 4) (constructPrng (le32 raw 0))).1 :=
  if_neg (Nat.not_lt.mpr h)

theorem deobfuscate_short {raw : List Byte} (h : raw.length < 4) : deobfuscate raw = .error ⟨.inputTooSmall, 0⟩ :=
  if_pos h

/-- Step 1 (R182). -/
theorem openContainer_short {raw : List Byte} (h : raw.length ≤ 20) :
    openContainer raw = .error ⟨.contentTooSmall, 0⟩ :=
  if_pos h

/-- Step 2 (R183), on a container step 1 lets through: neither of its own two errors can arise (R214). -/
theorem openContainer_long {raw d : List Byte} (h : 20 < raw.length) (hd : deobfuscate raw = .ok d) :
    openContainer raw =
      if checksum (d.drop 16) = le32 d 4 then
        .ok (⟨le32 d 0, le32 d 4, le32 d 8, le32 d 12⟩, d.drop 16)
      else .error ⟨.deobfuscateChecksumNotMatch, 0⟩ := by
  have hd' := deobfuscate_ok (raw := raw) (by omega)
  rw [hd] at hd'
  have hl : 16 ≤ d.length := by
    rw [Except.ok.inj hd', deobBytes_length, List.length_drop]; omega
  unfold openContainer
  rw [if_neg (Nat.not_le.mpr h), hd]
  simp only [parseHeader, headerLength]
  rw [if_neg (Nat.not_lt.mpr hl)]

/-- Everything DECODE and the compression codes do before step 3. -/
theorem decodeWith_steps (choose : Word → Compression) (s : State) (hl : s.srcIn.length ≤ s.cfg.maxInLen) :
    (s.srcIn.length ≤ 20 ∧ decodeWith choose s = .next (failed s 0x01 0)) ∨
      (20 < s.srcIn.length ∧ ∃ d, deobfuscate s.srcIn = .ok d ∧ d.length = s.srcIn.length - 4 ∧
        ((checksum (d.drop 16) ≠ le32 d 4 ∧ decodeWith choose s = .next (failed s 0x03 0)) ∨
          (checksum (d.drop 16) = le32 d 4 ∧
            decodeWith choose s
              = finish (choose (le32 d 12)) ⟨le32 d 0, le32 d 4, le32 d 8, le32 d 12⟩ (d.drop 16) s))) := by
  unfold decodeWith
  rw [if_neg (by simpa using hl), operandBytes_eq]
  by_cases h : s.srcIn.length ≤ 20
  · exact .inl ⟨h, by rw [openContainer_short h]; rfl⟩
  · have hd := deobfuscate_ok (raw := s.srcIn) (by omega)
    refine .inr ⟨by omega, _, hd, by rw [deobBytes_length, List.length_drop], ?_⟩
    rw [openContainer_long (by omega) hd]
    generalize (deobBytes (s.srcIn.drop 4) (constructPrng (le32 s.srcIn 0))).1 = d
    by_cases hc : checksum (d.drop 16) = le32 d 4
    · exact .inr ⟨hc, by rw [if_pos hc]⟩
    · exact .inl ⟨hc, by rw [if_neg hc]; rfl⟩

/-- A SRC_IN longer than `MAX_IN_LEN` is refused (R213). -/
theorem decodeWith_tooLong (choose : Word → Compression) {s : State} (h : s.cfg.maxInLen < s.srcIn.length) :
    decodeWith choose s = .refused .inputTooLong :=
  if_pos h

/-- The only error decompression raises (R151, R159). -/
theorem decompressFrom_error {n produced : Nat} {u : Lzss} {e : Err}
    (h : decompressFrom n produced u = .error e) : e.kind = .prematureEnd := by
  induction n generalizing produced u with
  | zero => cases h
  | succ n ih =>
    simp only [decompressFrom] at h
    split at h
    · cases h; rfl
    · split at h
      · cases h
      · next he => cases h; exact ih he

/-- `Decompress` answers exactly the bytes asked for (R159). -/
theorem decompressFrom_length {n produced : Nat} {u : Lzss} {bytes : List Byte}
    (h : decompressFrom n produced u = .ok bytes) : bytes.length = n := by
  induction n generalizing produced u bytes with
  | zero => cases h; rfl
  | succ n ih =>
    simp only [decompressFrom] at h
    split at h
    · cases h
    · split at h
      · next ho => cases h; simp [ih ho]
      · cases h

end Sys2Proof.Machine
end

