-- ==== Sys2Proof/Laws/PerInstr.lean ====
section
/-! SUPPORT. What holds of every instruction as syntax, one lemma per constructor. -/

namespace Sys2Proof.Laws.PatternFits

open Sys2Proof

/-- An instruction's pattern fits the width the table gives its class (spec/30_encoding.md R70). -/
def Statement (i : Instr) : Prop := encodeNumber i < 2 ^ encodeWidth i

theorem prngSeed : Statement .prngSeed := by unfold Statement; decide
theorem prngNext : Statement .prngNext := by unfold Statement; decide
theorem deobWord : Statement .deobWord := by unfold Statement; decide
theorem deobByte : Statement .deobByte := by unfold Statement; decide
theorem ckClear : Statement .ckClear := by unfold Statement; decide
theorem ckByte : Statement .ckByte := by unfold Statement; decide
theorem ckWord : Statement .ckWord := by unfold Statement; decide
theorem ckRead : Statement .ckRead := by unfold Statement; decide
theorem lzInit : Statement .lzInit := by unfold Statement; decide
theorem lzPull : Statement .lzPull := by unfold Statement; decide
theorem decode : Statement .decode := by unfold Statement; decide

theorem lit (b : Byte) : Statement (.lit b) := by
  have := b.isLt
  simp only [Statement, encodeNumber, encodeWidth]
  omega

theorem copy (offset : BitVec 12) (lengthField : BitVec 4) : Statement (.copy offset lengthField) := by
  have := offset.isLt
  have := lengthField.isLt
  simp only [Statement, encodeNumber, encodeWidth]
  omega

theorem compUncompressed : Statement .compUncompressed := by unfold Statement; decide
theorem compRle : Statement .compRle := by unfold Statement; decide
theorem compLzss : Statement .compLzss := by unfold Statement; decide

theorem compUnknown (code : Word) : Statement (.compUnknown code) := code.isLt

end Sys2Proof.Laws.PatternFits
end

