-- ==== Sys2Proof/Tests/Slice0.lean ====
section
/-! SUPPORT. Tests. Expected values come from spec/95_test_vectors.md and from the encodings of spec/30_encoding.md; the
`witness_…` theorems show that an obligation's hypotheses can be met. -/

namespace Sys2Proof.Tests

open Sys2Proof Sys2Proof.Machine Sys2Proof.Safety

set_option Elab.async false

/-! ### Helpers -/

/-- The answer is a next state that passes a check. -/
def ends (r : Result) (ok : State → Bool) : Bool :=
  match r with
  | .next t => ok t
  | .fault _ => false
  | .refused _ => false

/-- STATUS, RESULT and ERR_INFO. -/
def reports (code : BitVec 8) (result info : Word) (t : State) : Bool :=
  decide (t.statusCode = code) && decide (t.result = result) && decide (t.errInfo = info)

/-- Small parameters, so that their limits can be met. -/
def tight : Config := ⟨25, 5, by decide, by decide⟩

def onBus (e : HostEvent) : State := { State.reset with host := [e] }

def seededBy (seed : Word) : State := { State.reset with prng := constructPrng seed }

def withData (d : Word) (s : State) : State := { s with dataIn := d }

def withSource (cfg : Config) (bytes : List Byte) : State := { State.resetWith cfg with srcIn := bytes }

def lzFrom (bytes : List Byte) (limit : Word) : State := { State.reset with lz := freshLzss bytes limit }

/-- After the first pull of V3 and V7 (95_test_vectors.md §5): `41` emitted. -/
def afterLit (bytes : List Byte) (limit : Word) : State :=
  { State.reset with
    lz := { freshLzss bytes limit with window := [(1, 0x41)], wp := 2, bitpos := 9, outCount := 1 } }

/-- After the second pull of V3: a copy is pending. -/
def midCopy : State :=
  { State.reset with
    lz := { freshLzss [0xA0, 0x80, 0x04, 0xC0] 6 with
      window := [(1, 0x41), (2, 0x41)], wp := 3, rc := 2, rem := 4, bitpos := 26, outCount := 2 } }

/-- A checksum unit with bytes 1, 2, 3 pending (§4). -/
def pendingThree : State := { State.reset with ck := { Checksum.reset with pend := #v[1, 2, 3], pendN := 3 } }

/-- Containers of §6. -/
def p2 : List Byte :=
  [0x78, 0x56, 0x34, 0x12, 0xa2, 0xf9, 0xa3, 0x0d, 0x68, 0x43, 0xb1, 0xb6, 0x72, 0x27, 0x46, 0xc7, 0x2f, 0x0c, 0x29,
   0x0c, 0xba, 0x21, 0x9b, 0x73, 0x2a]

def p3 : List Byte :=
  [0xbe, 0xba, 0xfe, 0xca, 0x92, 0x8f, 0x65, 0x7f, 0x15, 0x65, 0xab, 0xb5, 0xe9, 0xec, 0xeb, 0x41, 0xd7, 0x4d, 0x52,
   0x07, 0xe0, 0x7b, 0x23, 0xb3, 0xce]

/-- The 21-byte minimum. -/
def p5 : List Byte :=
  [0x00, 0x00, 0x00, 0x00, 0xf7, 0x6e, 0xa5, 0x2c, 0x7d, 0xa6, 0x86, 0x92, 0xfb, 0x94, 0x7c, 0xcb, 0x0f, 0xbf, 0xb9,
   0x4d, 0x66]

def e1 : List Byte := p2.set 8 0x69
def e2 : List Byte := p2.set 16 0x2e
def e3 : List Byte := p2.set 16 0x2c
def e4 : List Byte := p3.set 12 0xe8
def e5 : List Byte := p3.set 4 0x93

/-- P2's deobfuscated buffer (§6). -/
def p2Buffer : List Byte :=
  [0x05, 0, 0, 0, 0x48, 0x45, 0x4c, 0x4c, 0, 0, 0, 0, 0, 0, 0, 0, 0x48, 0x45, 0x4c, 0x4c, 0x4f]

/-- P3's deobfuscated buffer (§6). -/
def p3Buffer : List Byte :=
  [0x08, 0, 0, 0, 0xb0, 0xd8, 0x80, 0x02, 0xc2, 0xc4, 0xc2, 0xc4, 0x02, 0, 0, 0, 0xb0, 0xd8, 0x80, 0x02, 0x80]

/-! ### Well-formedness (R73): an ill-formed term for the one check -/

theorem test_wellFormed_refuses_codes_below_three :
    (Instr.compUnknown 0).wellFormed = false ∧ (Instr.compUnknown 1).wellFormed = false
      ∧ (Instr.compUnknown 2).wellFormed = false := by decide

theorem test_wellFormed_accepts_codes_from_three :
    (Instr.compUnknown 3).wellFormed = true ∧ (Instr.compUnknown 0xFFFFFFFF).wellFormed = true := by decide

/-! ### Decoding: each word written out from R73, R75, R76, R81 -/

theorem test_decode_prngSeed : decode .hostCommand [0b00000001, 0, 0, 0] = .ok .prngSeed := by decide
theorem test_decode_prngNext : decode .hostCommand [0b00000010, 0, 0, 0] = .ok .prngNext := by decide
theorem test_decode_deobWord : decode .hostCommand [0b00000011, 0, 0, 0] = .ok .deobWord := by decide
theorem test_decode_deobByte : decode .hostCommand [0b00000100, 0, 0, 0] = .ok .deobByte := by decide
theorem test_decode_ckClear : decode .hostCommand [0b00000101, 0, 0, 0] = .ok .ckClear := by decide
theorem test_decode_ckByte : decode .hostCommand [0b00000110, 0, 0, 0] = .ok .ckByte := by decide
theorem test_decode_ckWord : decode .hostCommand [0b00000111, 0, 0, 0] = .ok .ckWord := by decide
theorem test_decode_ckRead : decode .hostCommand [0b00001000, 0, 0, 0] = .ok .ckRead := by decide
theorem test_decode_lzInit : decode .hostCommand [0b00001001, 0, 0, 0] = .ok .lzInit := by decide
theorem test_decode_lzPull : decode .hostCommand [0b00001010, 0, 0, 0] = .ok .lzPull := by decide
theorem test_decode_decode : decode .hostCommand [0b00001011, 0, 0, 0] = .ok .decode := by decide

/-- V1's first token: control bit 1, then `0100 0001`. -/
theorem test_decode_lit : decode .token [0b10100000, 0b10000000] = .ok (.lit 0x41) := by decide

/-- Control bit 0, offset `0001 0010 0011`, length field `0101`. -/
theorem test_decode_copy : decode .token [0b00001001, 0b00011010, 0b10000000] = .ok (.copy 0x123 5) := by decide

/-- V3's second token stands at stream bit 9. -/
theorem test_decode_copy_unaligned : decodeToken [0xA0, 0x80, 0x04, 0xC0] 9 = .ok (.copy 1 3) := by decide

theorem test_decode_compUncompressed : decode .headerCode [0, 0, 0, 0] = .ok .compUncompressed := by decide
theorem test_decode_compRle : decode .headerCode [0b00000001, 0, 0, 0] = .ok .compRle := by decide
theorem test_decode_compLzss : decode .headerCode [0b00000010, 0, 0, 0] = .ok .compLzss := by decide
theorem test_decode_compUnknown : decode .headerCode [0b00000011, 0, 0, 0] = .ok (.compUnknown 3) := by decide

/-- All 32 bits are compared (R73, R81). -/
theorem test_decode_high_bits :
    decode .headerCode [0, 0, 0, 0b00000001] = .ok (.compUnknown 0x01000000)
      ∧ decode .hostCommand [0b00000001, 0, 0, 0b00000001] = .error .reservedBitsSet
      ∧ decode .hostCommand [0b00001100, 0, 0, 0] = .error .reservedOpcode
      ∧ decode .hostCommand [0, 0, 0, 0] = .error .reservedOpcode := by decide

theorem test_decode_truncated :
    decode .token [0xA0] = .error .truncated ∧ decode .token [0x00, 0x08] = .error .truncated
      ∧ decode .hostCommand [1, 0, 0] = .error .truncated ∧ decode .headerCode [] = .error .truncated := by decide

theorem test_encode_tokens : encode (.lit 0x41) = [0xA0, 0x80] ∧ encode (.copy 4095 0) = [0x7F, 0xF8, 0x00] := by decide

/-! ### The table's numbering, and placing a word -/

theorem test_decodeTableWord :
    decodeTableWord 32 0x6 = some .ckByte ∧ decodeTableWord 16 0x141 = some (.lit 0x41)
      ∧ decodeTableWord 24 0x13 = some (.copy 1 3) ∧ decodeTableWord 32 0 = some .compUncompressed
      ∧ decodeTableWord 32 0xC = some (.compUnknown 0xC) ∧ decodeTableWord 16 0x41 = none := by decide +kernel

/-- A placed command, token and compression code each run on the very next step. -/
theorem test_withFetchWord :
    ends (step (State.reset.withFetchWord 32 0x2)) (reports 0x08 0 0) = true
      ∧ ends (step (State.reset.withFetchWord 16 0x141)) (reports 0x00 0x41 0) = true
      ∧ ends (step (State.reset.withFetchWord 24 0x13)) (fun t => reports 0x00 0 0 t && decide (t.lz.rem = 4)) = true
      ∧ ends (step (State.reset.withFetchWord 32 0)) (fun t => reports 0x00 1 0 t && decide (t.out = [0])) = true
      ∧ ends (step (State.reset.withFetchWord 32 0xC)) (reports 0x06 0 0) = true := by decide +kernel

/-! ### Reset and the host interface -/

theorem test_reset_memory_wf : Mem.wf State.reset.lz.window = true := by decide

/-- P7 commands 1 to 3. -/
theorem test_illegal_commands :
    ends (step (onBus (.write 0x00 0x0))) (reports 0x09 0 0) = true
      ∧ ends (step (onBus (.write 0x00 0xC))) (reports 0x09 0 0) = true
      ∧ ends (step (onBus (.write 0x00 0x12))) (reports 0x09 0 0) = true := by decide +kernel

theorem test_register_map :
    ends (step (onBus (.write 0x04 0x7E7D7C7B))) (fun t => decide (t.dataIn = 0x7E7D7C7B)) = true
      ∧ ends (step { onBus (.read 0x0C) with statusCode := 0x09 }) (fun t => decide (t.hostRead = 0x09)) = true
      ∧ ends (step { onBus (.read 0x00) with hostRead := 7 }) (fun t => decide (t.hostRead = 0)) = true := by decide +kernel

/-- R85: `DECODE <bytes>` writes 0 to DATA_IN, places the bytes and writes CMD. -/
theorem test_asm_command :
    asmCommand (.decode [1, 2]) = [.write 0x04 0, .present [1, 2], .write 0x00 0xB] := by decide

/-- R84: V3's program; a length of 1 does not assemble. -/
theorem test_asm_tokens :
    asmTokens [.lit 0x41, .copy 1 5] = some [0xA0, 0x80, 0x04, 0xC0] ∧ asmTokens [.copy 1 1] = none
      ∧ asmTokens [.copy 4096 2] = none ∧ asmTokens [.lit 256] = none := by decide

/-! ### SeededPRNG (§2) -/

theorem test_seed_iterate :
    seedIterate 0 = (0x3039, 0) ∧ seedIterate 0xFFFFFFFF = (0xBE39E1CC, 0x4E6CBE39)
      ∧ seedIterate 0x1146149B = (0x3038, 0x2CBA0000) := by decide +kernel

/-- §2.2, seed 0: the fill's two ends and four fix-up entries. -/
theorem test_prngSeed_table :
    ends (exec .prngSeed State.reset) (fun t =>
      reports 0x00 0 0 t && decide (t.prng.table[249] = 0x0) && decide (t.prng.table[248] = 0x0C63D3DC)
        && decide (t.prng.table[0] = 0xE0301770) && decide (t.prng.table[3] = 0xD131ECDD)
        && decide (t.prng.table[10] = 0x56D6DEA2) && decide (t.prng.table[213] = 2) && decide (t.prng.table[220] = 1)
        && decide (t.prng.table[227] = 0xDF9A5A19)) = true := by decide +kernel

/-- §2.3, seed 0, call #1. -/
theorem test_prngNext_value :
    ends (exec .prngNext (seededBy 0)) (fun t =>
      reports 0x00 0x2CA56EF7 0 t && decide (t.prng.i = 1) && decide (t.prng.j = 104)
        && decide (t.prng.table[0] = 0x2CA56EF7)) = true := by decide +kernel

/-- Both cursors wrap (R105). -/
theorem test_prngNext_wraps :
    ends (exec .prngNext { seededBy 0 with prng := { constructPrng 0 with i := 249, j := 102 } }) (fun t =>
      decide (t.prng.i = 0) && decide (t.prng.j = 103)) = true := by decide +kernel

/-- §3: the S1 group by command. -/
theorem test_deobWord_s1 :
    ends (exec .deobWord (withData 0x8281807F (seededBy 0x7E7D7C7B))) (reports 0x00 0x7A2ACB16 0) = true := by
  decide +kernel

/-- §3: `[00 ×5]` gives `f7`; the high DATA_IN bits are ignored (R83). -/
theorem test_deobByte_low_byte :
    ends (exec .deobByte (withData 0xFFFFFF00 (seededBy 0))) (reports 0x00 0xF7 0) = true := by decide +kernel

/-- S1 whole. -/
theorem test_deobfuscate_s1 :
    deobfuscate [123, 124, 125, 126, 127, 128, 129, 130, 131, 132, 133, 134, 135, 136, 137, 138, 139]
      = .ok [22, 203, 42, 122, 69, 220, 114, 34, 148, 54, 160, 111, 66] := by decide +kernel

/-! ### Checksum (§4) -/

theorem test_ckClear_keeps_pend :
    ends (exec .ckClear pendingThree) (fun t => decide (t.ck.pendN = 0) && decide (t.ck.pend.toList = [1, 2, 3])) = true := by
  decide +kernel

theorem test_ckByte_fourth :
    ends (exec .ckByte (withData 0x04 pendingThree)) (fun t =>
      decide (t.ck.sum = 0x04030201) && decide (t.ck.pendN = 0) && t.ck.odd) = true := by decide +kernel

/-- The second chunk is added, modulo 2^32. -/
theorem test_ckWord_adds :
    ends (exec .ckWord (withData 1 { State.reset with ck := { Checksum.reset with sum := 0xFFFFFFFF, odd := true } }))
      (fun t => decide (t.ck.sum = 0) && !t.ck.odd) = true := by decide +kernel

/-- §4: `CK_WORD 0x0000006F` with `45` pending completes `45 6f 00 00` and leaves `00` pending. -/
theorem test_ckWord_straddles :
    ends (exec .ckWord (withData 0x6F { State.reset with
        ck := { sum := 0x7A2ACB16, odd := true, pend := #v[0x45, 0, 0], pendN := 1 } })) (fun t =>
      decide (t.ck.sum = 0x7A2B3A5B) && !t.ck.odd && decide (t.ck.pendN = 1)) = true := by decide +kernel

theorem test_ckRead_ignores_pending :
    ends (exec .ckRead pendingThree) (reports 0x00 0 0) = true := by decide +kernel

theorem test_checksum_s1 :
    checksum [22, 203, 42, 122, 69, 220, 114, 34, 148, 54, 160, 111, 66] = 0xF33D91CF := by decide +kernel

/-! ### LZSS (§5) -/

theorem test_lzInit_starts_over :
    ends (exec .lzInit (withData 6 { midCopy with srcIn := [0xA0] })) (fun t =>
      decide (t.lz = freshLzss [0xA0] 6) && reports 0x00 0 0 t) = true := by decide +kernel

/-- V1. -/
theorem test_lit_v1 :
    ends (exec (.lit 0x41) (lzFrom [0xA0, 0x80] 1)) (fun t =>
      reports 0x00 0x41 0 t && decide (t.lz.wp = 2) && decide (windowByte t.lz 1 = 0x41) && decide (t.lz.bitpos = 9)) = true := by
  decide +kernel

/-- V11: `wp` wraps to 0 after 4095. -/
theorem test_lit_wraps :
    ends (exec (.lit 0xFF) { State.reset with lz := { freshLzss [0xFF, 0x80] 1 with wp := 4095 } })
      (fun t => decide (t.lz.wp = 0)) = true := by decide +kernel

/-- V3, its third row of P5. -/
theorem test_copy_v3 :
    ends (exec (.copy 1 3) (afterLit [0xA0, 0x80, 0x04, 0xC0] 6)) (fun t =>
      reports 0x00 0x41 0 t && decide (t.lz.rc = 2) && decide (t.lz.rem = 4) && decide (t.lz.bitpos = 26)) = true := by
  decide +kernel

/-- V9: `rc` wraps from 4095 to 0. -/
theorem test_copy_wraps :
    ends (exec (.copy 4095 1) { State.reset with lz := { freshLzss [0x7F, 0xF8, 0x80] 3 with window := [(0, 0x59), (4095, 0x58)] } })
      (fun t => reports 0x00 0x58 0 t && decide (t.lz.rc = 0) && decide (windowByte t.lz 1 = 0x58)) = true := by decide +kernel

/-- V6: the copy goes on where it stopped. -/
theorem test_lzPull_resumes :
    ends (exec .lzPull midCopy) (fun t =>
      reports 0x00 0x41 0 t && decide (t.lz.rem = 3) && decide (t.lz.wp = 4) && decide (t.lz.rc = 3)
        && decide (t.lz.bitpos = 26)) = true := by decide +kernel

/-- V7, pull 2. -/
theorem test_lzPull_premature_end :
    ends (exec .lzPull (afterLit [0xA0, 0x80] 2)) (fun t =>
      reports 0x07 0 1 t && decide (t.lz = (afterLit [0xA0, 0x80] 2).lz)) = true := by decide +kernel

/-- V4, V5, V10 and V12. -/
theorem test_decompress_vectors :
    decompress [0x00, 0x08, 0x80] 3 = .ok [0, 0, 0]
      ∧ decompress [0xBD, 0x00, 0x07, 0xC0] 18 = .ok (List.replicate 18 0x7A)
      ∧ decompress [0x7F, 0xF8, 0x00] 2 = .ok [0, 0]
      ∧ decompress [0xA0, 0x80, 0x00, 0x40] 4 = .ok [0x41, 0, 0x41, 0] := by decide +kernel

/-! ### DECODE (§6) -/

theorem test_decode_p2 :
    ends (exec .decode (withSource .widest p2)) (fun t =>
      reports 0x00 5 0 t && decide (t.out = [0x48, 0x45, 0x4c, 0x4c, 0x4f]) && decide (t.lz = Lzss.reset)
        && decide (t.ck = Checksum.reset) && !t.prng.seeded) = true := by decide +kernel

/-- E8: the checksum is checked before the code. -/
theorem test_decode_e8 :
    ends (exec .decode (withSource .widest (e1.set 16 0x2e))) (reports 0x03 0 0) = true := by decide +kernel

theorem test_compUncompressed_p5 :
    ends (exec .compUncompressed (withSource .widest p5)) (fun t => reports 0x00 1 0 t && decide (t.out = [0x7F])) = true := by
  decide +kernel

theorem test_compRle_e2 :
    ends (exec .compRle { withSource .widest e2 with out := [1] }) (fun t => reports 0x05 0 0 t && decide (t.out = [])) = true := by
  decide +kernel

theorem test_compLzss_p3 :
    ends (exec .compLzss (withSource .widest p3)) (fun t =>
      reports 0x00 8 0 t && decide (t.out = [0x61, 0x62, 0x61, 0x62, 0x61, 0x62, 0x61, 0x62])) = true := by decide +kernel

/-- E5: ERR_INFO counts the bytes produced. -/
theorem test_compLzss_e5 :
    ends (exec .compLzss (withSource .widest e5)) (reports 0x07 0 8) = true := by decide +kernel

theorem test_compUnknown_e3 :
    ends (exec (.compUnknown 3) (withSource .widest e3)) (reports 0x06 0 0) = true := by decide +kernel

/-! ### Witnesses: states and operands that meet each obligation's hypotheses -/

/-- The answer is this refusal. -/
def refuses (r : Result) (why : Refusal) : Bool :=
  match r with
  | .refused x => decide (x = why)
  | .next _ => false
  | .fault _ => false

theorem refuses_refused {r : Result} {why : Refusal} (h : refuses r why = true) : r = .refused why := by
  cases r with
  | next t => cases h
  | fault f => cases h
  | refused x => rw [of_decide_eq_true h]

theorem ends_next {r : Result} {ok : State → Bool} (h : ends r ok = true) : ∃ t, r = .next t ∧ ok t = true := by
  cases r with
  | next t => exact ⟨t, rfl, h⟩
  | fault f => cases h
  | refused r => cases h

/-- A seeded state whose host asserts reset; the step clears `seeded`. -/
theorem witness_ResetValues :
    ({ seededBy 0 with host := [.reset] } : State).host = .reset :: []
      ∧ ({ seededBy 0 with host := [.reset] } : State).prng.seeded = true
      ∧ ∃ t, step { seededBy 0 with host := [.reset] } = .next t ∧ (!t.prng.seeded) = true :=
  ⟨rfl, rfl, ends_next (by decide +kernel)⟩

/-- A copy is pending, the window holds bytes, and the step takes a byte. -/
theorem witness_StepKeepsInvariant :
    Inv { midCopy with host := [.write 0x00 0xA] }
      ∧ ∃ t, step { midCopy with host := [.write 0x00 0xA] } = .next t ∧ decide (t.lz.rem = 3) = true :=
  ⟨by decide +kernel, ends_next (by decide +kernel)⟩

theorem witness_StepRunsDecodedCommand :
    (onBus (.write 0x00 0x1)).host = .write 0x00 0x1 :: [] ∧ decode .hostCommand (bytesLe 0x1) = .ok .prngSeed
      ∧ (onBus (.write 0x00 0xB)).host = .write 0x00 0xB :: [] ∧ decode .hostCommand (bytesLe 0xB) = .ok .decode := by
  decide +kernel

theorem witness_LzPullRunsDecodedToken :
    (lzFrom [0xA0, 0x80, 0x04, 0xC0] 6).lz.rem = 0 ∧ decodeToken [0xA0, 0x80, 0x04, 0xC0] 0 = .ok (.lit 0x41)
      ∧ (afterLit [0xA0, 0x80, 0x04, 0xC0] 6).lz.rem = 0 ∧ decodeToken [0xA0, 0x80, 0x04, 0xC0] 9 = .ok (.copy 1 3) := by
  decide +kernel

theorem witness_DecodeRunsHeaderCode :
    deobfuscate (withSource .widest p2).srcIn = .ok p2Buffer ∧ deobfuscate (withSource .widest p3).srcIn = .ok p3Buffer := by
  decide +kernel

/-- `OP` 0, 0xC and 0xF, a reserved bit, and the last legal word. -/
theorem witness_IllegalCommandReported :
    (onBus (.write 0x00 0xC)).host = .write 0x00 0xC :: []
      ∧ ([0x0, 0xC, 0xF, 0x12, 0x80000001] : List Word).all
        (fun w => decide (w.toNat % 16 = 0 ∨ 12 ≤ w.toNat % 16 ∨ w.toNat / 16 ≠ 0)) = true
      ∧ ([0x1, 0xB] : List Word).all
        (fun w => decide (¬(w.toNat % 16 = 0 ∨ 12 ≤ w.toNat % 16 ∨ w.toNat / 16 ≠ 0))) = true := by
  decide +kernel

/-- Every offset of the map, and both ends of the reserved range. -/
theorem witness_HostReadsRegister :
    (∀ offset ∈ [(0x00 : BitVec 8), 0x04, 0x08, 0x0C, 0x10, 0x14, 0xFF],
      (onBus (.read offset)).host = .read offset :: [])
      ∧ 0x14 ≤ (0x14 : BitVec 8).toNat ∧ 0x14 ≤ (0xFF : BitVec 8).toNat := by
  decide +kernel

theorem witness_HostInputsTakeEffect :
    (∀ offset ∈ [(0x04 : BitVec 8), 0x08, 0x0C, 0x10, 0x14, 0xFF],
      (onBus (.write offset 5)).host = .write offset 5 :: []
        ∧ (offset = 0x04 ∨ offset = 0x08 ∨ offset = 0x0C ∨ offset = 0x10 ∨ 0x14 ≤ offset.toNat))
      ∧ (onBus (.present [1])).host = .present [1] :: [] ∧ State.reset.host = [] := by
  decide +kernel

theorem witness_UnmappedOffsetStops :
    (0x01 : BitVec 8).toNat < 0x14 ∧ (0x01 : BitVec 8).toNat % 4 ≠ 0 ∧ (onBus (.write 0x01 5)).host = .write 0x01 5 :: []
      ∧ (0x13 : BitVec 8).toNat < 0x14 ∧ (0x13 : BitVec 8).toNat % 4 ≠ 0 ∧ (onBus (.read 0x13)).host = .read 0x13 :: [] := by
  decide +kernel

theorem witness_StreamBitOrder : 15 < 8 * [(0xA0 : Byte), 0x80].length ∧ 8 * [(0xA0 : Byte), 0x80].length ≤ 16 := by decide

theorem witness_FieldsAreMsbFirst :
    readBits [0xA0, 0x80] 8 1 = some 0x41 ∧ decodeToken [0xA0, 0x80] 0 = .ok (.lit 0x41)
      ∧ decodeToken [0x7F, 0xF8, 0x80] 0 = .ok (.copy 4095 1) := by decide +kernel

/-- A LIT and a COPY that end on the stream's last bit. -/
theorem witness_TokenSpaceComplete :
    streamBit [0x01, 0x41] 7 = some true ∧ 7 + 9 ≤ 8 * [(0x01 : Byte), 0x41].length
      ∧ streamBit [0x00, 0x00, 0x13] 7 = some false ∧ 7 + 17 ≤ 8 * [(0x00 : Byte), 0x00, 0x13].length
      ∧ decodeToken [0x01, 0x41] 7 = .ok (.lit 0x41) ∧ decodeToken [0x00, 0x00, 0x13] 7 = .ok (.copy 1 3) := by
  decide +kernel

theorem witness_DecodeEncodeRoundTrip :
    (Instr.compUnknown 3).wellFormed = true ∧ (Instr.copy 4095 15).wellFormed = true
      ∧ (Instr.lit 0xFF).wellFormed = true ∧ Instr.decode.wellFormed = true := by decide

theorem witness_PrngNextDrawsWord : (seededBy 0).prng.seeded = true := rfl

theorem witness_DeobWordXorsWord : (withData 0x8281807F (seededBy 0x7E7D7C7B)).prng.seeded = true := rfl

theorem witness_DeobByteXorsLowByte : (withData 0xFF8B (seededBy 0x7E7D7C7B)).prng.seeded = true := rfl

theorem witness_SeededGuardsTheTable :
    (∃ t, exec .prngSeed State.reset = .next t ∧ t.prng.seeded = true)
      ∧ (∃ t, exec .ckRead (seededBy 0) = .next t ∧ t.prng.seeded = true)
      ∧ (∃ t, step (onBus .reset) = .next t ∧ (!t.prng.seeded) = true)
      ∧ State.reset.prng.seeded = false :=
  ⟨ends_next (by decide +kernel), ends_next (by decide +kernel), ends_next (by decide +kernel), rfl⟩

theorem witness_LaggedXorStream : 146 < 147 ∧ 147 ≤ 147 ∧ 249 < 250 ∧ 250 ≤ 250 := by decide

/-- No byte, one trailing byte, and the last byte of a group. -/
theorem witness_DeobfuscatedByteFormula :
    4 ≤ [(1 : Byte), 0, 0, 0].length
      ∧ 0 < [(0 : Byte), 0, 0, 0, 0].length - 4 ∧ 4 * (([(0 : Byte), 0, 0, 0, 0].length - 4) / 4) ≤ 0
      ∧ 3 < [(0 : Byte), 0, 0, 0, 0, 0, 0, 0].length - 4
      ∧ 3 < 4 * (([(0 : Byte), 0, 0, 0, 0, 0, 0, 0].length - 4) / 4) := by decide

theorem witness_DeobfuscateLength :
    4 ≤ p2.length ∧ [(1 : Byte), 0, 0, 0].length = 4 ∧ [(1 : Byte), 0, 0].length < 4
      ∧ ∃ t, exec .decode (withSource .widest [0]) = .next t ∧ decide (t.statusCode = 0x01) = true :=
  ⟨by decide, by decide, by decide, ends_next (by decide +kernel)⟩

theorem witness_StreamingDeobfuscationMatches : 4 ≤ p2.length ∧ 4 ≤ [(1 : Byte), 0, 0, 0].length := by decide

theorem witness_CkByteAppends :
    State.reset.ck.pendN.toNat < 3
      ∧ ({ State.reset with ck := { Checksum.reset with pendN := 2 } } : State).ck.pendN.toNat < 3
      ∧ pendingThree.ck.pendN.toNat = 3 := by decide

theorem witness_CkWordFoldsOneChunk :
    State.reset.ck.pendN.toNat = 0 ∧ (2 : Fin 3).val < pendingThree.ck.pendN.toNat
      ∧ pendingThree.ck.pendN.toNat ≤ 3 ∧ 3 < 4
      ∧ State.reset.ck.pendN.toNat ≤ (0 : Fin 3).val ∧ State.reset.ck.pendN.toNat ≤ (2 : Fin 3).val := by decide

theorem witness_IncrementalChecksum :
    ∀ c ∈ [(Instr.ckWord, (0x7A2ACB16 : Word)), (.ckByte, 0x45), (.ckWord, 0x6F)], c.1 = .ckByte ∨ c.1 = .ckWord := by decide

theorem witness_ChecksumProperties : [(1 : Byte), 2, 3].length < 4 := by decide

/-- SRC_IN as long as it may be. -/
theorem witness_LzInitMakesFresh : (withSource tight p2).srcIn.length ≤ (withSource tight p2).cfg.maxInLen := by decide

/-- Exactly the token's 9 bits remain. -/
theorem witness_LitStoresAndEmits :
    Mem.wf (lzFrom [0xA0, 0x80] 1).lz.window = true ∧ (lzFrom [0xA0, 0x80] 1).lz.outCount ≠ (lzFrom [0xA0, 0x80] 1).lz.limit
      ∧ (lzFrom [0xA0, 0x80] 1).lz.bitpos + 9 ≤ 8 * (lzFrom [0xA0, 0x80] 1).lz.src.length
      ∧ Mem.wf midCopy.lz.window = true := by decide

theorem witness_CopyEmitsFirstByte :
    Mem.wf (afterLit [0xA0, 0x80, 0x04, 0xC0] 6).lz.window = true
      ∧ (afterLit [0xA0, 0x80, 0x04, 0xC0] 6).lz.outCount ≠ (afterLit [0xA0, 0x80, 0x04, 0xC0] 6).lz.limit
      ∧ (afterLit [0xA0, 0x80, 0x04, 0xC0] 6).lz.bitpos + 17 ≤ 8 * (afterLit [0xA0, 0x80, 0x04, 0xC0] 6).lz.src.length := by
  decide

theorem witness_LzPullResumesCopy :
    Mem.wf midCopy.lz.window = true ∧ midCopy.lz.outCount ≠ midCopy.lz.limit ∧ midCopy.lz.rem ≠ 0 := by decide

/-- At reset, where both are 0, and with a copy pending (V6's end). -/
theorem witness_PullAtLimit :
    State.reset.lz.outCount = State.reset.lz.limit
      ∧ ({ midCopy with lz := { midCopy.lz with limit := 2 } } : State).lz.outCount
        = ({ midCopy with lz := { midCopy.lz with limit := 2 } } : State).lz.limit := by decide

/-- The stream used up, a LIT cut short, V7's COPY cut short, and the failing pull. -/
theorem witness_PullPastStreamEnd :
    ((lzFrom [] 1).lz.outCount ≠ (lzFrom [] 1).lz.limit ∧ (lzFrom [] 1).lz.rem = 0 ∧ TokenCutShort (lzFrom [] 1).lz)
      ∧ ((lzFrom [0xA0] 1).lz.outCount ≠ (lzFrom [0xA0] 1).lz.limit ∧ (lzFrom [0xA0] 1).lz.rem = 0
        ∧ TokenCutShort (lzFrom [0xA0] 1).lz)
      ∧ ((afterLit [0xA0, 0x80] 2).lz.outCount ≠ (afterLit [0xA0, 0x80] 2).lz.limit ∧ (afterLit [0xA0, 0x80] 2).lz.rem = 0
        ∧ TokenCutShort (afterLit [0xA0, 0x80] 2).lz)
      ∧ ∃ t, exec .lzPull (afterLit [0xA0, 0x80] 2) = .next t ∧ decide (t.statusCode = 0x07) = true :=
  ⟨by decide +kernel, by decide +kernel, by decide +kernel, ends_next (by decide +kernel)⟩

theorem witness_CopyRepeatsLastBytes :
    Mem.wf midCopy.lz.window = true ∧ midCopy.lz.wp ≠ midCopy.lz.rc ∧ 0 < 4
      ∧ Mem.wf ({ midCopy.lz with rc := 3 } : Lzss).window = true
      ∧ ({ midCopy.lz with rc := 3 } : Lzss).wp = ({ midCopy.lz with rc := 3 } : Lzss).rc := by decide

theorem witness_OffsetZeroStaysZero :
    0 ≤ 4095 ∧ lzSteps 0 (freshLzss [] 0) = some (freshLzss [] 0)
      ∧ 1 ≤ 4095 ∧ lzSteps 1 (freshLzss [0xA0, 0x80] 1)
        = some { freshLzss [0xA0, 0x80] 1 with window := [(1, 0x41)], wp := 2, bitpos := 9 } := by decide +kernel

/-- V3's tokens at their own size, and at one more. -/
theorem witness_TokenStreamOutput :
    (6 : Word).toNat ≤ (sendTokens [.lit 0x41, .copy 1 3]).length
      ∧ (sendTokens [.lit 0x41, .copy 1 3]).length < (7 : Word).toNat := by decide +kernel

theorem witness_UnreadInputIsIgnored :
    decompress [0xA0, 0x80, 0x04, 0xC0] 6 = .ok [0x41, 0x41, 0x41, 0x41, 0x41, 0x41] ∧ (3 : Word).toNat ≤ (6 : Word).toNat := by
  decide +kernel

theorem witness_CompressionCodes :
    (0 : Word).toNat = 0 ∧ (1 : Word).toNat = 1 ∧ (2 : Word).toNat = 2 ∧ 3 ≤ (3 : Word).toNat ∧ 3 ≤ (0xFFFFFFFF : Word).toNat := by
  decide

/-- E7's 20 bytes, then each outcome past step 1: E1 (its buffer is P2's with `cd` one more), P2 and the codes E2, E3 leave in its
header; P3, and P3 with E4's and E5's fields. -/
theorem witness_DecodeOutcomes :
    (withSource tight (List.replicate 20 0)).srcIn.length ≤ 20 ∧ 20 < (withSource tight p5).srcIn.length
      ∧ (withSource tight p2).srcIn.length ≤ (withSource tight p2).cfg.maxInLen
      ∧ (deobfuscate e1 = .ok (p2Buffer.set 4 0x49) ∧ checksum (p2Buffer.drop 16) ≠ le32 (p2Buffer.set 4 0x49) 4)
      ∧ (deobfuscate p2 = .ok p2Buffer ∧ checksum (p2Buffer.drop 16) = le32 p2Buffer 4 ∧ le32 p2Buffer 12 = 0
        ∧ (p2Buffer.drop 16).length ≤ tight.outCap)
      ∧ (deobfuscate e2 = .ok (p2Buffer.set 12 1) ∧ le32 (p2Buffer.set 12 1) 12 = 1)
      ∧ (deobfuscate e3 = .ok (p2Buffer.set 12 3) ∧ 3 ≤ (le32 (p2Buffer.set 12 3) 12).toNat)
      ∧ (deobfuscate p3 = .ok p3Buffer ∧ checksum (p3Buffer.drop 16) = le32 p3Buffer 4 ∧ le32 p3Buffer 12 = 2
        ∧ (le32 p3Buffer 0).toNat ≤ Config.widest.outCap
        ∧ decompress (p3Buffer.drop 16) 8 = .ok [0x61, 0x62, 0x61, 0x62, 0x61, 0x62, 0x61, 0x62]
        ∧ checksum [0x61, 0x62, 0x61, 0x62, 0x61, 0x62, 0x61, 0x62] = le32 p3Buffer 8)
      ∧ (deobfuscate e4 = .ok (p3Buffer.set 8 0xC3)
        ∧ checksum [0x61, 0x62, 0x61, 0x62, 0x61, 0x62, 0x61, 0x62] ≠ le32 (p3Buffer.set 8 0xC3) 8)
      ∧ (deobfuscate e5 = .ok (p3Buffer.set 0 9) ∧ decompress (p3Buffer.drop 16) 9 = .error ⟨.prematureEnd, 8⟩) := by
  decide +kernel

/-- P2 fills both parameters of `tight`. -/
theorem witness_CompressionCodesComplete :
    Opens (withSource tight p2) p2Buffer ∧ (p2Buffer.drop 16).length ≤ (withSource tight p2).cfg.outCap
      ∧ Opens (withSource .widest p3) p3Buffer ∧ (le32 p3Buffer 0).toNat ≤ Config.widest.outCap
      ∧ decompress (p3Buffer.drop 16) (le32 p3Buffer 0) = .ok [0x61, 0x62, 0x61, 0x62, 0x61, 0x62, 0x61, 0x62]
      ∧ checksum [0x61, 0x62, 0x61, 0x62, 0x61, 0x62, 0x61, 0x62] = le32 p3Buffer 8 := by decide +kernel

/-- P2. -/
theorem witness_UncompressedContainerRoundTrip :
    [(0x48 : Byte), 0x45, 0x4c, 0x4c, 0x4f] ≠ [] ∧ [(0x48 : Byte), 0x45, 0x4c, 0x4c, 0x4f].length + 20 ≤ tight.maxInLen
      ∧ [(0x48 : Byte), 0x45, 0x4c, 0x4c, 0x4f].length ≤ tight.outCap
      ∧ (withSource tight p2).srcIn = sealContainer 0x12345678
        (headerBytes 5 (checksum [0x48, 0x45, 0x4c, 0x4c, 0x4f]) 0 0 ++ [0x48, 0x45, 0x4c, 0x4c, 0x4f]) := by decide +kernel

/-- P3. -/
theorem witness_LzssContainerRoundTrip :
    [Token.lit 0x61, .lit 0x62, .copy 1 4] ≠ [] ∧ (8 : Word).toNat ≤ (sendTokens [.lit 0x61, .lit 0x62, .copy 1 4]).length
      ∧ (8 : Word).toNat ≤ Config.widest.outCap
      ∧ (packBits (tokensBits [.lit 0x61, .lit 0x62, .copy 1 4])).length + 20 ≤ Config.widest.maxInLen
      ∧ (withSource .widest p3).srcIn = sealContainer 0xCAFEBABE
        (headerBytes 8 (checksum (packBits (tokensBits [.lit 0x61, .lit 0x62, .copy 1 4])))
          (checksum ((sendTokens [.lit 0x61, .lit 0x62, .copy 1 4]).take (8 : Word).toNat)) 2
          ++ packBits (tokensBits [.lit 0x61, .lit 0x62, .copy 1 4])) := by decide +kernel

theorem witness_DecodeOutputLength :
    (∃ t, exec .decode (withSource tight p2) = .next t ∧ decide (t.statusCode = 0x00) = true)
      ∧ ∃ t, exec .decode (withSource .widest p3) = .next t ∧ decide (t.statusCode = 0x00) = true :=
  ⟨ends_next (by decide +kernel), ends_next (by decide +kernel)⟩

/-- A DECODE that fails, and one of the same container from a state that differs in everything else. -/
theorem witness_DecodeIsPure :
    (∃ t, exec .decode (withSource .widest e1) = .next t ∧ decide (IsErrorCode t.statusCode) = true)
      ∧ (withSource .widest e1).srcIn = ({ midCopy with srcIn := e1, out := [1] } : State).srcIn
      ∧ ∃ t, exec .decode { midCopy with srcIn := e1, out := [1] } = .next t ∧ decide (IsErrorCode t.statusCode) = true :=
  ⟨ends_next (by decide +kernel), rfl, ends_next (by decide +kernel)⟩

theorem witness_FailingCommandChangesNoUnit :
    (∃ t, exec .prngNext State.reset = .next t ∧ decide (IsErrorCode t.statusCode) = true)
      ∧ (∃ t, exec .decode (withSource .widest e1) = .next t ∧ decide (IsErrorCode t.statusCode) = true)
      ∧ decodeCommand 0xC = .error .reservedOpcode :=
  ⟨ends_next (by decide +kernel), ends_next (by decide +kernel), by decide⟩

theorem witness_FailingCommandRepeats :
    (∃ t, exec .lzPull (afterLit [0xA0, 0x80] 2) = .next t ∧ decide (IsErrorCode t.statusCode) = true)
      ∧ ∃ t, exec .decode (withSource .widest e1) = .next t ∧ decide (IsErrorCode t.statusCode) = true :=
  ⟨ends_next (by decide +kernel), ends_next (by decide +kernel)⟩

theorem witness_StatusCodesPerCommand :
    (∃ t, exec .lzPull midCopy = .next t ∧ decide (t.statusCode = 0x00) = true)
      ∧ 0x0A ∈ statusCodes .lzPull ∧ decodeCommand 0x12 = .error .reservedBitsSet :=
  ⟨ends_next (by decide +kernel), by decide, by decide⟩

/-- A PRNG_SEED in the middle of a copy. -/
theorem witness_UnitsAreIsolated :
    (∃ t, exec .prngSeed midCopy = .next t ∧ decide (t.lz = midCopy.lz) = true)
      ∧ Instr.prngSeed ∉ [Instr.ckClear, .ckByte, .ckWord] ∧ Instr.prngSeed ∉ [Instr.lzInit, .lzPull]
      ∧ Instr.prngSeed.encClass ≠ .token ∧ Instr.prngSeed ≠ .decode ∧ Instr.prngSeed.encClass ≠ .headerCode
      ∧ Instr.lzPull ∉ [Instr.prngSeed, .prngNext, .deobWord, .deobByte] :=
  ⟨ends_next (by decide +kernel), by decide, by decide, by decide, by decide, by decide, by decide⟩

/-- DEOB_BYTE's high bits, and a refused LZ_INIT. -/
theorem witness_UnusedDataInIgnored :
    0xFF8B &&& usedDataIn .deobByte = (withData 0x8B (seededBy 0)).dataIn &&& usedDataIn .deobByte
      ∧ (∃ t, exec .deobByte (withData 0x8B (seededBy 0)) = .next t ∧ decide (t.statusCode = 0x00) = true)
      ∧ 5 &&& usedDataIn .decode = (withSource tight (p2 ++ [0])).dataIn &&& usedDataIn .decode
      ∧ exec .decode (withSource tight (p2 ++ [0])) = .refused .inputTooLong :=
  ⟨by decide +kernel, ends_next (by decide +kernel), by decide +kernel, refuses_refused (by decide +kernel)⟩

/-- One byte past `MAX_IN_LEN`, one and more past `OUT_CAP`. -/
theorem witness_CapacityRefusals :
    exec .lzInit (withSource tight (p2 ++ [0])) = .refused .inputTooLong
      ∧ exec .decode (withSource tight (p2 ++ [0])) = .refused .inputTooLong
      ∧ (withSource ⟨25, 4, by decide, by decide⟩ p2).cfg.outCap < p2.length - 20
      ∧ exec .decode (withSource ⟨25, 4, by decide, by decide⟩ p2) = .refused .outputTooLong
      ∧ exec .decode (withSource ⟨25, 7, by decide, by decide⟩ p3) = .refused .outputTooLong
      ∧ Instr.decode.encClass ≠ .headerCode :=
  ⟨refuses_refused (by decide +kernel), refuses_refused (by decide +kernel), by decide +kernel,
    refuses_refused (by decide +kernel), refuses_refused (by decide +kernel), by decide⟩

/-- SRC_IN too long for any code, and each output path one byte past `OUT_CAP`. -/
theorem witness_CodeRefusals :
    Instr.compRle.encClass = .headerCode
      ∧ exec .compRle (withSource tight (p2 ++ [0])) = .refused .inputTooLong
      ∧ Opens (withSource ⟨25, 4, by decide, by decide⟩ p2) p2Buffer
      ∧ exec .compUncompressed (withSource ⟨25, 4, by decide, by decide⟩ p2) = .refused .outputTooLong
      ∧ Opens (withSource ⟨25, 7, by decide, by decide⟩ p3) p3Buffer ∧ 7 < (le32 p3Buffer 0).toNat
      ∧ exec .compLzss (withSource ⟨25, 7, by decide, by decide⟩ p3) = .refused .outputTooLong :=
  ⟨by decide, refuses_refused (by decide +kernel), by decide +kernel, refuses_refused (by decide +kernel),
    by decide +kernel, by decide +kernel, refuses_refused (by decide +kernel)⟩

end Sys2Proof.Tests
end

section
/-! PROOFS. The obligations of spec/00_scope.md: words as bytes (R9), and a step as the command it starts (R5). -/

namespace Sys2Proof

/-! ### Words as four bytes (R9, R51, R55) -/

/-- A little-endian word is its bytes put side by side, the first byte lowest (R51). -/
theorem le32Of_eq_append (b0 b1 b2 b3 : Byte) : le32Of b0 b1 b2 b3 = b3 ++ b2 ++ b1 ++ b0 := by
  have h : (b3 ++ b2 ++ b1 ++ b0).setWidth 32
      = zext32 b3 <<< 24 ||| zext32 b2 <<< 16 ||| zext32 b1 <<< 8 ||| zext32 b0 :=
    BitVec.setWidth_append_append_append_eq_shiftLeft_setWidth_or
  rw [BitVec.setWidth_eq] at h
  rw [h, BitVec.or_comm _ (zext32 b0), BitVec.or_comm _ (zext32 b1 <<< 8), BitVec.or_comm (zext32 b3 <<< 24),
    ← BitVec.or_assoc, ← BitVec.or_assoc]
  rfl

theorem toNat_append_byte {n : Nat} (x : BitVec n) (b : Byte) :
    (x ++ b).toNat = b.toNat + 2 ^ 8 * x.toNat := by
  rw [BitVec.toNat_append, ← Nat.shiftLeft_add_eq_or_of_lt b.isLt, Nat.shiftLeft_eq]
  omega

theorem toNat_le32Of (b0 b1 b2 b3 : Byte) : (le32Of b0 b1 b2 b3).toNat
    = b0.toNat + 2 ^ 8 * b1.toNat + 2 ^ 16 * b2.toNat + 2 ^ 24 * b3.toNat := by
  have h32 := toNat_append_byte b3 b2
  have h321 := toNat_append_byte (b3 ++ b2) b1
  have h3210 := toNat_append_byte (b3 ++ b2 ++ b1) b0
  rw [le32Of_eq_append]
  omega

/-- `bytes_le` gives back the bytes of a little-endian word. -/
@[simp] theorem bytesLe_le32Of (b0 b1 b2 b3 : Byte) : bytesLe (le32Of b0 b1 b2 b3) = [b0, b1, b2, b3] := by
  have h0 : (b3 ++ b2 ++ b1 ++ b0).extractLsb' 0 8 = b0 := BitVec.extractLsb'_append_eq_right
  have h1 : (b3 ++ b2 ++ b1 ++ b0).extractLsb' 8 8 = b1 :=
    (BitVec.extractLsb'_append_eq_of_le (by decide)).trans BitVec.extractLsb'_append_eq_right
  have h2 : (b3 ++ b2 ++ b1 ++ b0).extractLsb' 16 8 = b2 :=
    (BitVec.extractLsb'_append_eq_of_le (by decide)).trans <|
      (BitVec.extractLsb'_append_eq_of_le (by decide)).trans BitVec.extractLsb'_append_eq_right
  have h3 : (b3 ++ b2 ++ b1 ++ b0).extractLsb' 24 8 = b3 :=
    (BitVec.extractLsb'_append_eq_of_le (by decide)).trans <|
      (BitVec.extractLsb'_append_eq_of_le (by decide)).trans BitVec.extractLsb'_append_eq_left
  rw [le32Of_eq_append]
  exact congr (congrArg _ h0) (congr (congrArg _ h1) (congr (congrArg _ h2) (congrArg (· :: []) h3)))

/-- The word of a word's own bytes is that word. -/
@[simp] theorem le32_bytesLe (v : Word) : le32 (bytesLe v) 0 = v := by
  have h32 : v.extractLsb' 24 8 ++ v.extractLsb' 16 8 = v.extractLsb' 16 16 :=
    BitVec.extractLsb'_append_extractLsb'_eq_extractLsb' rfl
  have h321 : v.extractLsb' 16 16 ++ v.extractLsb' 8 8 = v.extractLsb' 8 24 :=
    BitVec.extractLsb'_append_extractLsb'_eq_extractLsb' rfl
  have h3210 : v.extractLsb' 8 24 ++ v.extractLsb' 0 8 = v.extractLsb' 0 32 :=
    BitVec.extractLsb'_append_extractLsb'_eq_extractLsb' rfl
  calc le32 (bytesLe v) 0
    _ = v.extractLsb' 24 8 ++ v.extractLsb' 16 8 ++ v.extractLsb' 8 8 ++ v.extractLsb' 0 8 := le32Of_eq_append ..
    _ = v := by rw [h32, h321, h3210, BitVec.extractLsb'_eq_self]

/-- XOR acts on each byte of a word on its own (R55). -/
theorem wordByte_xor (v w : Word) (k : Nat) : wordByte (v ^^^ w) k = wordByte v k ^^^ wordByte w k :=
  BitVec.extractLsb'_xor

theorem bytesLe_xor (v w : Word) : bytesLe (v ^^^ w) = List.zipWith (· ^^^ ·) (bytesLe v) (bytesLe w) := by
  simp [bytesLe, wordByte_xor]

/-- A CMD word's bytes decode as the word does. -/
@[simp] theorem decode_hostCommand_bytesLe (w : Word) : decode .hostCommand (bytesLe w) = decodeCommand w := by
  have h : ¬ (bytesLe w).length < 4 := by simp [bytesLe]
  rw [decode, if_neg h, le32_bytesLe]

end Sys2Proof

namespace Sys2Proof.Machine

open Sys2Proof

/-! ### A step, by the next host access (R5, R34) -/

theorem step_of_host_cons {s : State} {e : HostEvent} {rest : List HostEvent} (h : s.host = e :: rest) :
    step s = serve e { s with host := rest } := by
  obtain ⟨hnil, -⟩ | ⟨e', rest', hcons, hstep⟩ := step_cases s
  · rw [hnil] at h; cases h
  · rw [hcons] at h; cases h; exact hstep

theorem runCommand_of_decode {w : Word} {i : Instr} (h : decodeCommand w = .ok i) (s : State) :
    runCommand w s = exec i s := by
  rw [runCommand, h]

/-- A write at offset 0x00 is a write of CMD (R34). -/
theorem serve_write_cmd (w : Word) (s : State) : serve (.write 0x00 w) s = runCommand w s := rfl

end Sys2Proof.Machine

namespace Sys2Proof

open Sys2Proof.Machine

/-- Settles O4: the access that is served is the written CMD word, and its bytes decode as the word. -/
theorem stepRunsDecodedCommand : Obligations.StepRunsDecodedCommand := by
  intro s w rest i hhost hdec
  rw [decode_hostCommand_bytesLe] at hdec
  calc
    step s = serve (.write 0x00 w) { s with host := rest } := step_of_host_cons hhost
    _ = runCommand w { s with host := rest } := serve_write_cmd w _
    _ = exec i { s with host := rest } := runCommand_of_decode hdec _

/-- Settles O18: a little-endian word is its bytes side by side, which fixes its value and its bytes; XOR acts on each. -/
theorem littleEndianWords : Obligations.LittleEndianWords := by
  refine ⟨toNat_le32Of, le32_bytesLe, fun b0 b1 b2 b3 v => ?_⟩
  have hword : le32 [b0, b1, b2, b3] 0 = le32Of b0 b1 b2 b3 := rfl
  rw [hword, bytesLe_xor, bytesLe_le32Of]
  rfl

end Sys2Proof
end

section
/-! PROOFS. The obligations of spec/10_state.md: the host's accesses (R34 to R37), who owns a register (R20, R23), and the
invariant (R22, R28 to R32, R36, R40). -/

namespace Sys2Proof.Machine

open Sys2Proof Sys2Proof.Safety

/-! ### The register map (R34) -/

theorem busRegister_of_reserved {offset : BitVec 8} (h : 0x14 ≤ offset.toNat) :
    busRegister offset = some .reserved := by
  have hne : ∀ a : BitVec 8, a.toNat < 0x14 → offset ≠ a := by
    rintro a ha rfl
    omega
  simp [busRegister, hne, h]

/-- Every register below the reserved range starts at a multiple of 4. -/
theorem busRegister_of_unaligned {offset : BitVec 8} (hlow : offset.toNat < 0x14) (hmod : offset.toNat % 4 ≠ 0) :
    busRegister offset = none := by
  have hne : ∀ a : BitVec 8, a.toNat % 4 = 0 → offset ≠ a := by
    rintro a ha rfl
    exact hmod ha
  simp [busRegister, hne, Nat.not_le.mpr hlow]

theorem serve_read {offset : BitVec 8} {r : BusRegister} (h : busRegister offset = some r) (s : State) :
    serve (.read offset) s = .next (hostReads r s) := by
  simp only [serve, h]

theorem serve_write {offset : BitVec 8} {r : BusRegister} (h : busRegister offset = some r) (hr : r ≠ .cmd) (v : Word)
    (s : State) : serve (.write offset v) s = .next (busWrite r v s) := by
  cases r with
  | cmd => exact absurd rfl hr
  | _ => simp only [serve, h]

theorem serve_read_unmapped {offset : BitVec 8} (h : busRegister offset = none) (s : State) :
    serve (.read offset) s = .fault (.noRegisterAt offset) := by
  simp only [serve, h]

theorem serve_write_unmapped {offset : BitVec 8} (h : busRegister offset = none) (v : Word) (s : State) :
    serve (.write offset v) s = .fault (.noRegisterAt offset) := by
  simp only [serve, h]

theorem step_read {s : State} {offset : BitVec 8} {rest : List HostEvent} {r : BusRegister}
    (hhost : s.host = .read offset :: rest) (hr : busRegister offset = some r) :
    step s = .next (hostReads r { s with host := rest }) :=
  (step_of_host_cons hhost).trans (serve_read hr _)

theorem step_write {s : State} {offset : BitVec 8} {v : Word} {rest : List HostEvent} {r : BusRegister}
    (hhost : s.host = .write offset v :: rest) (hr : busRegister offset = some r) (hcmd : r ≠ .cmd) :
    step s = .next (busWrite r v { s with host := rest }) :=
  (step_of_host_cons hhost).trans (serve_write hr hcmd v _)

@[simp] theorem toNat_zext32 (b : Byte) : (zext32 b).toNat = b.toNat := by
  simp only [zext32, BitVec.toNat_setWidth]
  omega

/-! ### What one decoding step of the decompressor can do (spec/43_lzss.md R152 to R155) -/

/-- The byte a decoding step emits from `u`, and the unit after it. -/
inductive Emitted (u : Lzss) : Byte × Lzss → Prop
  | pending (hrem : u.rem ≠ 0) : Emitted u (copyByte u)
  | lit (b : Byte) (hfits : u.bitpos + 9 ≤ 8 * u.src.length) : Emitted u (b, storeByte b (consumeBits 9 u))
  | copy (offset : BitVec 12) (lengthField : BitVec 4) (hfits : u.bitpos + 17 ≤ 8 * u.src.length) :
      Emitted u (copyByte (startCopy offset lengthField (consumeBits 17 u)))

theorem emitted_of_runToken {t : Token} {u : Lzss} {p : Byte × Lzss} (h : runToken t u = some p) : Emitted u p := by
  have hfits : u.bitpos + tokenWidth t ≤ 8 * u.src.length := by
    by_contra hlong
    rw [runToken_eq_none.mpr (Nat.not_le.mp hlong)] at h
    cases h
  cases t with
  | lit b =>
    rw [runToken_lit hfits] at h
    cases h
    exact .lit b hfits
  | copy offset lengthField =>
    rw [runToken_copy hfits] at h
    cases h
    exact .copy offset lengthField hfits

theorem emitted_of_lzStep {u : Lzss} {p : Byte × Lzss} (h : lzStep u = some p) : Emitted u p := by
  obtain ⟨hrem, hstep⟩ | ⟨-, t, -, hstep⟩ | ⟨-, -, hstep⟩ := lzStep_cases u <;> rw [hstep] at h
  · cases h
    exact .pending hrem
  · exact emitted_of_runToken h
  · cases h

/-! ### What executing an instruction can do, by the unit it belongs to (R20) -/

/-- The PRNG's three readers (R21, R23). -/
abbrev DrawsWord (i : Instr) : Prop := i ∈ [Instr.prngNext, .deobWord, .deobByte]

/-- LZ_PULL, or a token, which is the pull that fetches it (notes/assumptions/8.md). -/
abbrev PullsByte (i : Instr) : Prop := i = .lzPull ∨ i.encClass = .token

/-- DECODE, or a compression code, which is the DECODE that finds it (notes/assumptions/9.md). -/
abbrev RunsDecode (i : Instr) : Prop := i = .decode ∨ i.encClass = .headerCode

/-- An error some command can raise, with the diagnostic word it may carry (spec/60_exceptions.md R202, R214). -/
abbrev ErrSound (e : Err) : Prop := e.kind ≠ .inputTooSmall ∧ (e.kind ≠ .prematureEnd → e.info = 0)

theorem errSound_of_prematureEnd {e : Err} (h : e.kind = .prematureEnd) : ErrSound e :=
  ⟨by rw [h]; decide, fun hne => absurd h hne⟩

/-- The states executing `i` from `s` can end in. -/
inductive Executed (s : State) (i : Instr) : State → Prop
  | seeded (hi : i = .prngSeed) : Executed s i (complete 0 (setPrng (constructPrng s.dataIn) s))
  | drew (hi : DrawsWord i) (hseeded : s.prng.seeded = true) (value : Word) :
      Executed s i (complete value (setPrng (drawWord s.prng).2 s))
  | notSeeded (hi : DrawsWord i) (hseeded : s.prng.seeded = false) : Executed s i (raiseErr .notSeeded 0 s)
  | folded (hi : i ∈ [Instr.ckClear, .ckByte, .ckWord]) (c : Checksum) : Executed s i (complete 0 (setChecksum c s))
  | sumRead (hi : i = .ckRead) : Executed s i (complete s.ck.sum s)
  | bound (hi : i = .lzInit) : Executed s i (complete 0 (setLzss (freshLzss s.srcIn s.dataIn) s))
  | sizeReached (hi : PullsByte i) (hlimit : s.lz.outCount = s.lz.limit) : Executed s i (endOfStream s)
  | endedEarly (hi : PullsByte i) (hlimit : s.lz.outCount ≠ s.lz.limit) :
      Executed s i (raiseErr .prematureEnd s.lz.outCount s)
  | pulled (hi : PullsByte i) (hlimit : s.lz.outCount ≠ s.lz.limit) {p : Byte × Lzss}
      (hp : Emitted s.lz p) : Executed s i (complete (zext32 p.1) (setLzss (countByte p.2) s))
  | delivered (hi : RunsDecode i) (bytes : List Byte) :
      Executed s i (complete (BitVec.ofNat 32 bytes.length) (setOut bytes s))
  | failed (hi : RunsDecode i) {e : Err} (he : ErrSound e) :
      Executed s i (raiseErr e.kind e.info (setOut [] s))

theorem executed_drawAnd {s : State} {i : Instr} (hi : DrawsWord i) (value : Word → Word) :
    Executed s i (drawAnd value s) := by
  obtain ⟨hseeded, h⟩ | ⟨hseeded, h⟩ := drawAnd_cases value s <;> rw [h]
  · exact .drew hi hseeded _
  · exact .notSeeded hi hseeded

theorem executed_pullWith {s : State} {i : Instr} (hi : PullsByte i)
    {stepUnit : Lzss → Option (Byte × Lzss)} (hunit : ∀ {p}, stepUnit s.lz = some p → Emitted s.lz p) :
    Executed s i (pullWith stepUnit s) := by
  obtain ⟨hlimit, h⟩ | ⟨hlimit, -, h⟩ | ⟨hlimit, b, u, hstep, h⟩ := pullWith_cases stepUnit s <;> rw [h]
  · exact .sizeReached hi hlimit
  · exact .endedEarly hi hlimit
  · exact .pulled hi hlimit (hunit hstep)

section
variable {s t : State} {i : Instr} (hi : RunsDecode i)
include hi

theorem executed_failDecode {e : Err} (he : ErrSound e) (h : failDecode e s = .next t) : Executed s i t := by
  cases h
  exact .failed hi he

theorem executed_deliver {bytes : List Byte} (h : deliver bytes s = .next t) : Executed s i t := by
  cases h
  exact .delivered hi bytes

theorem executed_finish {c : Compression} {header : Header} {payload : List Byte}
    (h : finish c header payload s = .next t) : Executed s i t := by
  cases c with
  | uncompressed =>
    simp only [finish, finishUncompressed] at h
    split at h
    · cases h
    · exact executed_deliver hi h
  | rle => exact executed_failDecode hi (by decide) h
  | lzss =>
    simp only [finish, finishLzss] at h
    split at h
    · cases h
    · split at h
      · next e herr =>
        exact executed_failDecode hi (errSound_of_prematureEnd (decompressFrom_error herr)) h
      · split at h
        · exact executed_deliver hi h
        · exact executed_failDecode hi (by decide) h
  | unknown code => exact executed_failDecode hi (by decide) h

theorem executed_decodeWith {choose : Word → Compression} (h : decodeWith choose s = .next t) : Executed s i t := by
  by_cases hlong : s.cfg.maxInLen < s.srcIn.length
  · rw [decodeWith_tooLong choose hlong] at h
    cases h
  · obtain ⟨-, heq⟩ | ⟨-, d, -, -, ⟨-, heq⟩ | ⟨-, heq⟩⟩ := decodeWith_steps choose s (Nat.not_lt.mp hlong) <;>
      rw [heq] at h
    · exact executed_failDecode hi (e := ⟨.contentTooSmall, 0⟩) (by decide) h
    · exact executed_failDecode hi (e := ⟨.deobfuscateChecksumNotMatch, 0⟩) (by decide) h
    · exact executed_finish hi h

end

/-- Everything executing an instruction can do, said once. -/
theorem executed_of_exec {i : Instr} {s t : State} (h : exec i s = .next t) : Executed s i t := by
  cases i with
  | prngSeed => cases h; exact .seeded rfl
  | prngNext => cases h; exact executed_drawAnd (by decide) _
  | deobWord => cases h; exact executed_drawAnd (by decide) _
  | deobByte => cases h; exact executed_drawAnd (by decide) _
  | ckClear => cases h; exact .folded (by decide) _
  | ckByte => cases h; exact .folded (by decide) _
  | ckWord => cases h; exact .folded (by decide) _
  | ckRead => cases h; exact .sumRead rfl
  | lzInit =>
    simp only [exec, execLzInit] at h
    split at h
    · cases h
    · cases h; exact .bound rfl
  | lzPull => cases h; exact executed_pullWith (.inl rfl) emitted_of_lzStep
  | lit b => cases h; exact executed_pullWith (.inr rfl) emitted_of_runToken
  | copy offset lengthField => cases h; exact executed_pullWith (.inr rfl) emitted_of_runToken
  | decode => exact executed_decodeWith (.inl rfl) h
  | compUncompressed => exact executed_decodeWith (choose := fun _ => .uncompressed) (.inr rfl) h
  | compRle => exact executed_decodeWith (choose := fun _ => .rle) (.inr rfl) h
  | compLzss => exact executed_decodeWith (choose := fun _ => .lzss) (.inr rfl) h
  | compUnknown code => exact executed_decodeWith (choose := fun _ => .unknown code) (.inr rfl) h

/-! ### Each unit's registers, and what the host holds, after an instruction (R20) -/

section
variable {s t : State} {i : Instr}

theorem prng_of_executed (h : Executed s i t) (hi : i ∉ [Instr.prngSeed, .prngNext, .deobWord, .deobByte]) :
    t.prng = s.prng := by
  cases h with
  | seeded hseed => exact absurd (by simp [hseed]) hi
  | drew hreader => exact absurd (List.mem_cons_of_mem _ hreader) hi
  | _ => simp

theorem ck_of_executed (h : Executed s i t) (hi : i ∉ [Instr.ckClear, .ckByte, .ckWord]) : t.ck = s.ck := by
  cases h with
  | folded hck => exact absurd hck hi
  | _ => simp

theorem lz_of_executed (h : Executed s i t) (hi : i ∉ [Instr.lzInit, .lzPull]) (htoken : i.encClass ≠ .token) :
    t.lz = s.lz := by
  cases h with
  | bound hinit => exact absurd (by simp [hinit]) hi
  | pulled hpull => exact absurd (by simp [hpull.resolve_right htoken]) hi
  | _ => simp

theorem out_of_executed (h : Executed s i t) (hi : i ≠ .decode) (hcode : i.encClass ≠ .headerCode) : t.out = s.out := by
  cases h with
  | delivered hdec => exact absurd (hdec.resolve_right hcode) hi
  | failed hdec => exact absurd (hdec.resolve_right hcode) hi
  | _ => simp

theorem sameHost_of_executed (h : Executed s i t) : SameHost s t := by
  cases h <;> simp [SameHost]

/-- Drawing a word leaves `seeded` alone; only PRNG_SEED sets it (R23). -/
theorem seeded_of_executed (h : Executed s i t) (hi : i ≠ .prngSeed) : t.prng.seeded = s.prng.seeded := by
  cases h with
  | seeded hseed => exact absurd hseed hi
  | _ => simp

end

theorem drawAnd_of_not_seeded {s : State} (value : Word → Word) (h : s.prng.seeded = false) :
    drawAnd value s = raiseErr .notSeeded 0 s := by
  obtain ⟨hseeded, -⟩ | ⟨-, heq⟩ := drawAnd_cases value s
  · rw [h] at hseeded; cases hseeded
  · exact heq

/-! ### The PRNG's cursors (R22, R40) -/

theorem cursorsInStep_drawWord {p : Prng} (h : CursorsInStep p) : CursorsInStep (drawWord p).2 := by
  simp only [CursorsInStep, drawWord_i, drawWord_j, Fin.val_add] at h ⊢
  simp only [h, Fin.val_one', Nat.add_mod_mod, Nat.mod_add_mod]

/-! ### The decompressor's ranges (R28 to R32) -/

theorem lzssSound_freshLzss (src : List Byte) (limit : Word) : LzssSound (freshLzss src limit) :=
  ⟨freshLzss_window_wf src limit, by simp, by simp, by simp⟩

theorem lzssSound_consumeBits {n : Nat} {u : Lzss} (h : LzssSound u) (hfits : u.bitpos + n ≤ 8 * u.src.length) :
    LzssSound (consumeBits n u) := by
  obtain ⟨hwindow, hrem, -, hcount⟩ := h
  exact ⟨hwindow, hrem, hfits, hcount⟩

theorem lzssSound_storeByte {b : Byte} {u : Lzss} (h : LzssSound u) : LzssSound (storeByte b u) := by
  obtain ⟨hwindow, hrest⟩ := h
  exact ⟨storeByte_window_wf hwindow, hrest⟩

/-- A copy is 2 to 17 bytes long (spec/30_encoding.md R78). -/
theorem toNat_copyLength (lengthField : BitVec 4) : (copyLength lengthField).toNat = lengthField.toNat + 2 := by
  simp only [copyLength, BitVec.toNat_add, BitVec.toNat_setWidth, BitVec.reduceToNat]
  omega

theorem copyLength_ne_zero (lengthField : BitVec 4) : copyLength lengthField ≠ 0 := by
  intro h
  have := toNat_copyLength lengthField
  rw [h] at this
  simp at this

theorem lzssSound_startCopy {offset : BitVec 12} {lengthField : BitVec 4} {u : Lzss} (h : LzssSound u) :
    LzssSound (startCopy offset lengthField u) := by
  obtain ⟨hwindow, -, hrest⟩ := h
  refine ⟨hwindow, ?_, hrest⟩
  rw [startCopy_rem, toNat_copyLength]
  omega

/-- `rem` counts down from a nonzero value, so it does not wrap. -/
theorem lzssSound_copyByte {u : Lzss} (h : LzssSound u) (hpending : u.rem ≠ 0) : LzssSound (copyByte u).2 := by
  obtain ⟨hwindow, hrem, hrest⟩ := h
  refine ⟨copyByte_window_wf hwindow, ?_, hrest⟩
  rw [copyByte_rem]
  bv_omega

theorem lzssSound_of_emitted {u : Lzss} {p : Byte × Lzss} (h : LzssSound u) (hp : Emitted u p) : LzssSound p.2 := by
  cases hp with
  | pending hrem => exact lzssSound_copyByte h hrem
  | lit b hfits => exact lzssSound_storeByte (lzssSound_consumeBits h hfits)
  | copy offset lengthField hfits =>
    exact lzssSound_copyByte (lzssSound_startCopy (lzssSound_consumeBits h hfits)) (copyLength_ne_zero lengthField)

theorem counters_of_emitted {u : Lzss} {p : Byte × Lzss} (hp : Emitted u p) :
    p.2.outCount = u.outCount ∧ p.2.limit = u.limit := by
  cases hp <;> exact ⟨rfl, rfl⟩

/-- Below the limit there is room for one more byte (R32). -/
theorem lzssSound_countByte {u : Lzss} (h : LzssSound u) (hlimit : u.outCount ≠ u.limit) :
    LzssSound (countByte u) := by
  obtain ⟨hwindow, hrem, hbits, hcount⟩ := h
  refine ⟨hwindow, hrem, hbits, ?_⟩
  rw [countByte_outCount, countByte_limit]
  bv_omega

/-! ### The report registers (R36, R37) -/

theorem reportSound_complete (value : Word) (s : State) : ReportSound (complete value s) :=
  ⟨by simp, by simp, by simp, by simp⟩

theorem reportSound_endOfStream (s : State) : ReportSound (endOfStream s) :=
  ⟨by simp, by simp, by simp, by simp⟩

theorem errCode_le (kind : ErrKind) : (errCode kind).toNat ≤ 0x0A := by
  cases kind <;> decide

theorem errCode_ne_inputTooSmall {kind : ErrKind} (h : kind ≠ .inputTooSmall) : errCode kind ≠ 0x02 := by
  cases kind with
  | inputTooSmall => exact absurd rfl h
  | _ => decide

theorem reportSound_raiseErr {e : Err} (h : ErrSound e) (s : State) : ReportSound (raiseErr e.kind e.info s) := by
  obtain ⟨kind, info⟩ := e
  obtain ⟨hkind, hinfo⟩ := h
  exact ⟨errCode_le kind, errCode_ne_inputTooSmall hkind, fun _ => rfl,
    fun hcode => hinfo fun heq => hcode (congrArg errCode heq)⟩

/-! ### The invariant -/

theorem inv_of_executed {s t : State} {i : Instr} (hinv : Inv s) (h : Executed s i t) : Inv t := by
  obtain ⟨hcur, hlz, -⟩ := hinv
  cases h with
  | seeded => exact ⟨rfl, hlz, reportSound_complete ..⟩
  | drew => exact ⟨cursorsInStep_drawWord hcur, hlz, reportSound_complete ..⟩
  | notSeeded => exact ⟨hcur, hlz, reportSound_raiseErr (e := ⟨.notSeeded, 0⟩) (by decide) s⟩
  | folded => exact ⟨hcur, hlz, reportSound_complete ..⟩
  | sumRead => exact ⟨hcur, hlz, reportSound_complete ..⟩
  | bound => exact ⟨hcur, lzssSound_freshLzss .., reportSound_complete ..⟩
  | sizeReached => exact ⟨hcur, hlz, reportSound_endOfStream s⟩
  | endedEarly => exact ⟨hcur, hlz, reportSound_raiseErr (errSound_of_prematureEnd (e := ⟨.prematureEnd, _⟩) rfl) s⟩
  | pulled _ hlimit hp =>
    obtain ⟨hcount, hlim⟩ := counters_of_emitted hp
    rw [← hcount, ← hlim] at hlimit
    exact ⟨hcur, lzssSound_countByte (lzssSound_of_emitted hlz hp) hlimit, reportSound_complete ..⟩
  | delivered => exact ⟨hcur, hlz, reportSound_complete ..⟩
  | failed _ he => exact ⟨hcur, hlz, reportSound_raiseErr he _⟩

theorem inv_raiseIllegal {s : State} (h : Inv s) : Inv (raiseIllegal s) := by
  obtain ⟨hcur, hlz, -⟩ := h
  exact ⟨hcur, hlz, reportSound_raiseErr (e := ⟨.illegalCommand, 0⟩) (by decide) s⟩

theorem inv_busWrite {s : State} (h : Inv s) (r : BusRegister) (v : Word) : Inv (busWrite r v s) := by
  cases r <;> exact h

/-- Reset leaves the decompressor as `LZ_INIT 0, []` does (spec/70_reset_and_hazards.md R230). -/
theorem inv_resetWith (cfg : Config) : Inv (State.resetWith cfg) :=
  ⟨rfl, lzssSound_freshLzss [] 0, reportSound_complete 0 (State.resetWith cfg)⟩

theorem inv_of_serve {e : HostEvent} {s t : State} (hinv : Inv s) (h : serve e s = .next t) : Inv t := by
  obtain ⟨w, i, -, -, heq⟩ | ⟨w, r, -, -, heq⟩ | ⟨offset, v, r, -, -, -, heq⟩ | ⟨offset, r, -, -, heq⟩ |
    ⟨bytes, -, heq⟩ | ⟨-, heq⟩ | ⟨offset, -, heq⟩ := serve_cases e s <;> rw [heq] at h
  · exact inv_of_executed hinv (executed_of_exec h)
  · cases h; exact inv_raiseIllegal hinv
  · cases h; exact inv_busWrite hinv r v
  · cases h; exact hinv
  · cases h; exact hinv
  · cases h; exact inv_resetWith s.cfg
  · cases h

end Sys2Proof.Machine

namespace Sys2Proof

open Sys2Proof.Machine Sys2Proof.Safety

/-- Settles O3: an instruction keeps each part of the invariant by what its unit can do, a host access by what it writes. -/
theorem stepKeepsInvariant : Obligations.StepKeepsInvariant := by
  intro s t hinv hstep
  obtain ⟨-, heq⟩ | ⟨e, rest, -, heq⟩ := step_cases s <;> rw [heq] at hstep
  · cases hstep; exact hinv
  · have hrest : Inv { s with host := rest } := hinv
    exact inv_of_serve hrest hstep

/-- Settles O24: the PRNG is replaced by PRNG_SEED and by reset, and advanced, with `seeded` kept, by its readers. -/
theorem seededGuardsTheTable : Obligations.SeededGuardsTheTable := by
  refine ⟨?_, ?_, ?_, fun _ => rfl, ?_⟩
  · intro s t h
    cases h
    exact constructPrng_seeded _
  · intro i s t h hi
    exact seeded_of_executed (executed_of_exec h) hi
  · intro s t rest hhost h
    rw [step_of_host_cons hhost] at h
    cases h
    rfl
  · intro i hi s hs
    simp only [List.mem_cons, List.not_mem_nil, or_false] at hi
    obtain rfl | rfl | rfl := hi <;>
      exact congrArg Host.Outcome.next (drawAnd_of_not_seeded _ hs)

/-- Settles O57: each unit's frame over what an instruction can do. -/
theorem unitsAreIsolated : Obligations.UnitsAreIsolated := by
  intro i s t h
  have hrun := executed_of_exec h
  exact ⟨prng_of_executed hrun, ck_of_executed hrun, lz_of_executed hrun, out_of_executed hrun,
    sameHost_of_executed hrun⟩

/-- Settles O2: the reset state is unseeded with its cursors 103 apart, a fresh decompressor and an OK report. -/
theorem resetMeetsInvariant : Obligations.ResetMeetsInvariant := inv_resetWith

/-- Settles O8: the register at each offset of the map, and what reading it returns. -/
theorem hostReadsRegister : Obligations.HostReadsRegister := by
  intro s offset rest hhost
  refine ⟨?_, ?_, ?_, ?_, ?_, fun h => step_read hhost (busRegister_of_reserved h)⟩
  · rintro rfl; exact step_read hhost (r := .cmd) rfl
  · rintro rfl; exact step_read hhost (r := .dataIn) rfl
  · rintro rfl; exact step_read hhost (r := .result) rfl
  · rintro rfl; exact ⟨zext32 s.statusCode, step_read hhost (r := .status) rfl, toNat_zext32 _⟩
  · rintro rfl; exact step_read hhost (r := .errInfo) rfl

/-- Settles O9: the register at each offset of the map, and what a write to it does. -/
theorem hostInputsTakeEffect : Obligations.HostInputsTakeEffect := by
  refine ⟨fun s offset v rest hhost => ⟨?_, ?_⟩, fun s bytes rest hhost => step_of_host_cons hhost, ?_⟩
  · rintro rfl; exact step_write hhost (r := .dataIn) rfl (by decide)
  · rintro (rfl | rfl | rfl | h)
    · exact step_write hhost (r := .result) rfl (by decide)
    · exact step_write hhost (r := .status) rfl (by decide)
    · exact step_write hhost (r := .errInfo) rfl (by decide)
    · exact step_write hhost (busRegister_of_reserved h) (by decide)
  · intro s hhost
    obtain ⟨-, h⟩ | ⟨e, rest, hcons, -⟩ := step_cases s
    · exact h
    · rw [hhost] at hcons; cases hcons

/-- Settles O10: such an offset has no register, so neither a write nor a read of it is served. -/
theorem unmappedOffsetStops : Obligations.UnmappedOffsetStops := by
  intro s offset v rest hlow hmod hhost
  have hnone := busRegister_of_unaligned hlow hmod
  obtain hwrite | hread := hhost
  · exact (step_of_host_cons hwrite).trans (serve_write_unmapped hnone v _)
  · exact (step_of_host_cons hread).trans (serve_read_unmapped hnone _)

end Sys2Proof
end

section
/-! PROOFS. The obligations of spec/20_memory.md: where stream bits stand (R53), and the fields read from them (R54). -/

namespace Sys2Proof

/-! ### The bits of a stream (R53, R84) -/

/-- A stream is its bytes' bits, one byte after the other. -/
theorem streamBit_eq_getElem?_bytesBits (src : List Byte) (k : Nat) : streamBit src k = (bytesBits src)[k]? := by
  induction src generalizing k with
  | nil => rfl
  | cons b src ih =>
    have hcons : bytesBits (b :: src) = byteBits b ++ bytesBits src := rfl
    rw [hcons]
    by_cases hk : k < 8
    · rw [List.getElem?_append_left hk]
      interval_cases k <;> rfl
    · obtain ⟨j, rfl⟩ := Nat.exists_eq_add_of_le' (Nat.not_lt.mp hk)
      have htail : streamBit (b :: src) (j + 8) = streamBit src j := by simp [streamBit]
      rw [List.getElem?_append_right (Nat.not_lt.mp hk), htail, ih]
      rfl

@[simp] theorem byteBits_byteOfBits (b7 b6 b5 b4 b3 b2 b1 b0 : Bool) :
    byteBits (byteOfBits b7 b6 b5 b4 b3 b2 b1 b0) = [b7, b6, b5, b4, b3, b2, b1, b0] := by
  revert b7 b6 b5 b4 b3 b2 b1 b0
  decide

/-- Packing keeps every bit at its place; what it adds stands behind them (R84). -/
theorem isPrefix_bytesBits_packBits (bits : List Bool) : bits <+: bytesBits (packBits bits) := by
  fun_induction packBits bits with
  | case9 a b c d e f g h rest ih => simpa [bytesBits] using ih
  | _ => simp [bytesBits]

/-- `bits` stand in the stream `src` from bit `pos` on. -/
def BitsAt (src : List Byte) (pos : Nat) (bits : List Bool) : Prop :=
  ∀ k, k < bits.length → streamBit src (pos + k) = bits[k]?

@[simp] theorem bitsAt_nil (src : List Byte) (pos : Nat) : BitsAt src pos [] := by
  simp [BitsAt]

@[simp] theorem bitsAt_cons {src : List Byte} {pos : Nat} {bit : Bool} {bits : List Bool} :
    BitsAt src pos (bit :: bits) ↔ streamBit src pos = some bit ∧ BitsAt src (pos + 1) bits := by
  simp only [BitsAt, List.length_cons, Nat.forall_lt_succ_left]
  simp [Nat.add_right_comm, Nat.add_assoc]

@[simp] theorem bitsAt_append {src : List Byte} {pos : Nat} {bits bits' : List Bool} :
    BitsAt src pos (bits ++ bits') ↔ BitsAt src pos bits ∧ BitsAt src (pos + bits.length) bits' := by
  induction bits generalizing pos with
  | nil => simp
  | cons bit bits ih => simp [ih, and_assoc, Nat.add_right_comm, ← Nat.add_assoc]

/-- Packed bits stand in the packed stream, whatever stands around them. -/
theorem bitsAt_packBits (before bits after : List Bool) :
    BitsAt (packBits (before ++ bits ++ after)) before.length bits := by
  intro k hk
  obtain ⟨pad, hpad⟩ := isPrefix_bytesBits_packBits (before ++ bits ++ after)
  rw [streamBit_eq_getElem?_bytesBits, ← hpad, List.append_assoc, List.append_assoc,
    List.getElem?_append_right (Nat.le_add_right ..), Nat.add_sub_cancel_left, List.getElem?_append_left hk]

/-! ### Fields (R54, R151) -/

@[simp] theorem length_msbBits (n v : Nat) : (msbBits n v).length = n := by
  induction n with
  | zero => rfl
  | succ n ih => simp [msbBits, ih]

/-- A field's first stream bit is its top bit. -/
theorem bitsAt_msbBits {src : List Byte} {n pos v : Nat} :
    BitsAt src pos (msbBits n v) ↔ ∀ k, k < n → streamBit src (pos + k) = some (v.testBit (n - 1 - k)) := by
  induction n generalizing pos with
  | zero => simp [msbBits]
  | succ n ih =>
    rw [Nat.forall_lt_succ_left, msbBits, bitsAt_cons, ih]
    simp [Nat.add_right_comm, ← Nat.add_assoc, Nat.sub_sub, Nat.add_comm 1]

/-- Reading `n` bits after the number `v` answers the number that continues `v` with those bits. -/
theorem readBitsFrom_eq_some {src : List Byte} {n pos v r : Nat} :
    readBitsFrom src n pos v = some r ↔ r / 2 ^ n = v ∧ BitsAt src pos (msbBits n r) := by
  induction n generalizing pos v with
  | zero => simp [readBitsFrom, msbBits, eq_comm]
  | succ n ih =>
    cases hbit : streamBit src pos with
    | none => simp [readBitsFrom, msbBits, hbit]
    | some bit =>
      have htop : r / 2 ^ n = 2 * v + bit.toNat ↔ r / 2 ^ (n + 1) = v ∧ bit = r.testBit n := by
        rw [Nat.pow_succ, ← Nat.div_div_eq_div_mul, Nat.testBit_eq_decide_div_mod_eq]
        cases bit <;> simp <;> omega
      simp [readBitsFrom, msbBits, hbit, ih, htop, and_assoc]

/-- `ReadBits(n)` answers the number below `2 ^ n` whose bits, the top one first, stand at the position (R54). -/
theorem readBits_eq_some {src : List Byte} {n pos v : Nat} :
    readBits src n pos = some v ↔ v < 2 ^ n ∧ BitsAt src pos (msbBits n v) := by
  rw [readBits, readBitsFrom_eq_some, Nat.div_eq_zero_iff_lt (Nat.two_pow_pos n)]

/-- A field taken as a bit vector of its own width is that field unchanged (R78). -/
theorem readBits_map_ofNat {src : List Byte} {n pos : Nat} {x : BitVec n} :
    (readBits src n pos).map (BitVec.ofNat n) = some x ↔ BitsAt src pos (msbBits n x.toNat) := by
  rw [Option.map_eq_some_iff]
  constructor
  · rintro ⟨v, hv, rfl⟩
    obtain ⟨hlt, hbits⟩ := readBits_eq_some.mp hv
    rwa [BitVec.toNat_ofNat, Nat.mod_eq_of_lt hlt]
  · intro hbits
    exact ⟨x.toNat, readBits_eq_some.mpr ⟨x.isLt, hbits⟩, by simp⟩

/-! ### Tokens (spec/30_encoding.md R74 to R77) -/

/-- After a first bit 1, the token is the LIT of the byte read next (R75). -/
theorem decodeToken_of_true {src : List Byte} {pos : Nat} {t : Token} (hfirst : streamBit src pos = some true) :
    decodeToken src pos = .ok t ↔ ∃ b, BitsAt src (pos + 1) (msbBits 8 b.toNat) ∧ t = .lit b := by
  simp only [decodeToken, hfirst, ← readBits_map_ofNat]
  cases readBits src 8 (pos + 1) <;> simp [eq_comm]

/-- After a first bit 0, the token is the COPY of the two fields read next (R76). -/
theorem decodeToken_of_false {src : List Byte} {pos : Nat} {t : Token} (hfirst : streamBit src pos = some false) :
    decodeToken src pos = .ok t ↔ ∃ offset lengthField, BitsAt src (pos + 1) (msbBits 12 offset.toNat)
      ∧ BitsAt src (pos + 13) (msbBits 4 lengthField.toNat) ∧ t = .copy offset lengthField := by
  simp only [decodeToken, hfirst, ← readBits_map_ofNat]
  cases readBits src 12 (pos + 1) <;> cases readBits src 4 (pos + 13) <;> simp [eq_comm]

/-- A token is decoded where its bits stand, and nowhere else: the first bit says which token to look for (R77). -/
theorem decodeToken_eq_ok {src : List Byte} {pos : Nat} {t : Token} :
    decodeToken src pos = .ok t ↔ BitsAt src pos (tokenBits t) := by
  rcases hfirst : streamBit src pos with _ | _ | _
  · cases t <;> simp [decodeToken, tokenBits, hfirst]
  · cases t <;> simp [decodeToken_of_false hfirst, tokenBits, hfirst]
  · cases t <;> simp [decodeToken_of_true hfirst, tokenBits, hfirst]

/-- Settles O16: packing leaves the token's bits standing behind those before it, and there they decode to it. -/
theorem tokenDecodesAnywhere : Obligations.TokenDecodesAnywhere :=
  fun t before after => decodeToken_eq_ok.mpr (bitsAt_packBits before (tokenBits t) after)

/-- Settles O13: a field's value is the one whose bits stand in the stream, top bit first, and a token is its fields. -/
theorem fieldsAreMsbFirst : Obligations.FieldsAreMsbFirst := by
  refine ⟨fun src n pos v h => ?_, fun src pos b h => ?_, fun src pos offset lengthField h => ?_⟩
  · obtain ⟨hlt, hbits⟩ := readBits_eq_some.mp h
    exact ⟨hlt, bitsAt_msbBits.mp hbits⟩
  · obtain ⟨hfirst, hbyte⟩ := bitsAt_cons.mp (decodeToken_eq_ok.mp h)
    exact ⟨hfirst, bitsAt_msbBits.mp hbyte⟩
  · obtain ⟨hfirst, hfields⟩ := bitsAt_cons.mp (decodeToken_eq_ok.mp h)
    obtain ⟨hoffset, hlength⟩ := bitsAt_append.mp hfields
    rw [length_msbBits] at hlength
    exact ⟨hfirst, bitsAt_msbBits.mp hoffset, bitsAt_msbBits.mp hlength⟩

/-- Settles O12: the bit of the byte there is, as arithmetic on it; past the last byte there is none. -/
theorem streamBitOrder : Obligations.StreamBitOrder := by
  refine fun src k => ⟨fun hk => ?_, streamBit_eq_none.mpr⟩
  have hbyte : k / 8 < src.length := by omega
  rw [streamBit, List.getElem?_eq_getElem hbyte, List.getD_eq_getElem _ _ hbyte, ← Nat.testBit_eq_decide_div_mod_eq]
  rfl

end Sys2Proof
end

section
/-! PROOFS. The obligations of spec/30_encoding.md: the three encodings (R73 to R77, R81, R82), window address 0 (R79), and
the DATA_IN bits a command does not read (R83). -/

namespace Sys2Proof

/-! ### CMD words (R81, R82) -/

/-- The opcode map's rows are the host commands, each at its own pattern. -/
theorem mem_commandRows {w : Word} {i : Instr} :
    (⟨w, i⟩ : CommandRow) ∈ commandRows ↔ i.encClass = .hostCommand ∧ w.toNat = encodeNumber i := by
  constructor
  · have hrows : ∀ r ∈ commandRows, r.instr.encClass = .hostCommand ∧ r.word.toNat = encodeNumber r.instr := by decide
    exact hrows ⟨w, i⟩
  · rintro ⟨hclass, hw⟩
    have hword : w = BitVec.ofNat 32 (encodeNumber i) := by rw [← hw, BitVec.ofNat_toNat, BitVec.setWidth_eq]
    subst hword
    cases i with
    | lit | copy | compUncompressed | compRle | compLzss | compUnknown => cases hclass
    | _ => decide

theorem decodeCommand_eq_ok {w : Word} {i : Instr} : decodeCommand w = .ok i ↔ (⟨w, i⟩ : CommandRow) ∈ commandRows := by
  have hrows : ∀ r ∈ commandRows, decodeCommand r.word = .ok r.instr := by decide
  exact ⟨decodeCommand_ok, hrows ⟨w, i⟩⟩

/-- Settles O17: the rows of the opcode map are exactly the commands' words. -/
theorem commandWordsAreExact : Obligations.CommandWordsAreExact :=
  fun _ _ => decodeCommand_eq_ok.trans mem_commandRows

/-- The commands' words are the numbers 1 to 11; every other word is illegal (R82). -/
theorem exists_decodeCommand_ok {w : Word} : (∃ i, decodeCommand w = .ok i) ↔ 1 ≤ w.toNat ∧ w.toNat ≤ 11 := by
  have hwords : commandRows.map (fun r => r.word.toNat) = List.range' 1 11 := by decide
  calc (∃ i, decodeCommand w = .ok i)
    _ ↔ ∃ r ∈ commandRows, r.word.toNat = w.toNat := by
      constructor
      · rintro ⟨i, h⟩
        exact ⟨⟨w, i⟩, decodeCommand_eq_ok.mp h, rfl⟩
      · rintro ⟨⟨v, i⟩, hrow, hv⟩
        obtain rfl : v = w := BitVec.eq_of_toNat_eq hv
        exact ⟨i, decodeCommand_eq_ok.mpr hrow⟩
    _ ↔ w.toNat ∈ List.range' 1 11 := by rw [← hwords, List.mem_map]
    _ ↔ 1 ≤ w.toNat ∧ w.toNat ≤ 11 := by rw [List.mem_range'_1]; omega

/-! ### Compression codes (R73) -/

/-- A code reads as an instruction exactly where it is the whole pattern of a well-formed one. -/
theorem instr_compressionOf {code : Word} {i : Instr} : (compressionOf code).instr = i ↔
    i.encClass = .headerCode ∧ i.wellFormed = true ∧ code.toNat = encodeNumber i := by
  constructor
  · rintro rfl
    obtain ⟨rfl, h⟩ | ⟨rfl, h⟩ | ⟨rfl, h⟩ | ⟨⟨h0, h1, h2⟩, h⟩ := compressionOf_cases code <;> rw [h]
    · decide
    · decide
    · decide
    · have hcode : 3 ≤ code.toNat := by bv_omega
      exact ⟨rfl, decide_eq_true hcode, rfl⟩
  · rintro ⟨hclass, hwf, hcode⟩
    cases i with
    | compUncompressed => rw [show code = 0 from BitVec.eq_of_toNat_eq hcode]; rfl
    | compRle => rw [show code = 1 from BitVec.eq_of_toNat_eq hcode]; rfl
    | compLzss => rw [show code = 2 from BitVec.eq_of_toNat_eq hcode]; rfl
    | compUnknown c =>
      obtain rfl : code = c := BitVec.eq_of_toNat_eq hcode
      have hc : 3 ≤ code.toNat := of_decide_eq_true hwf
      obtain ⟨rfl, -⟩ | ⟨rfl, -⟩ | ⟨rfl, -⟩ | ⟨-, h⟩ := compressionOf_cases code
      · exact absurd hc (by decide)
      · exact absurd hc (by decide)
      · exact absurd hc (by decide)
      · rw [h]; rfl
    | _ => cases hclass

/-- Settles O47: each code is the whole pattern of one well-formed instruction. -/
theorem compressionCodes : Obligations.CompressionCodes := by
  intro code
  obtain ⟨-, hwf, -⟩ := instr_compressionOf.mp (rfl : (compressionOf code).instr = _)
  exact ⟨fun h => instr_compressionOf.mpr ⟨rfl, rfl, h⟩, fun h => instr_compressionOf.mpr ⟨rfl, rfl, h⟩,
    fun h => instr_compressionOf.mpr ⟨rfl, rfl, h⟩,
    fun h => instr_compressionOf.mpr ⟨rfl, decide_eq_true h, rfl⟩, hwf⟩

/-- A header code's bytes decode as the code is compared. -/
@[simp] theorem decode_headerCode_bytesLe (code : Word) :
    decode .headerCode (bytesLe code) = .ok (compressionOf code).instr := by
  have h : ¬ (bytesLe code).length < 4 := by simp [bytesLe]
  rw [decode, if_neg h, le32_bytesLe]

/-! ### Tokens (R74 to R77) -/

/-- `n` bits left in the stream are the bits of some field. -/
theorem exists_bitsAt_msbBits {src : List Byte} {pos n : Nat} (h : pos + n ≤ 8 * src.length) :
    ∃ x : BitVec n, BitsAt src pos (msbBits n x.toNat) := by
  obtain ⟨v, hv⟩ := Option.isSome_iff_exists.mp (readBitsFrom_isSome (v := 0) h)
  exact ⟨BitVec.ofNat n v, readBits_map_ofNat.mp (congrArg (Option.map (BitVec.ofNat n)) hv)⟩

/-- Settles O14: the bits left after the first one are some byte, or some offset and length field. -/
theorem tokenSpaceComplete : Obligations.TokenSpaceComplete := by
  refine fun src pos => ⟨fun hfirst hlen => ?_, fun hfirst hlen => ?_, fun t ht => ⟨?_, decodeToken_inside ht⟩⟩
  · obtain ⟨b, hb⟩ := exists_bitsAt_msbBits (src := src) (pos := pos + 1) (n := 8) (by omega)
    exact ⟨.lit b, (decodeToken_of_true hfirst).mpr ⟨b, hb, rfl⟩, rfl⟩
  · obtain ⟨offset, ho⟩ := exists_bitsAt_msbBits (src := src) (pos := pos + 1) (n := 12) (by omega)
    obtain ⟨lengthField, hl⟩ := exists_bitsAt_msbBits (src := src) (pos := pos + 13) (n := 4) (by omega)
    exact ⟨.copy offset lengthField, (decodeToken_of_false hfirst).mpr ⟨offset, lengthField, ho, hl, rfl⟩, rfl⟩
  · have hbits := decodeToken_eq_ok.mp ht
    cases t with
    | lit => exact .inl ⟨(bitsAt_cons.mp hbits).1, rfl⟩
    | copy => exact .inr ⟨(bitsAt_cons.mp hbits).1, rfl⟩

/-- A field is its low bits alone. -/
theorem msbBits_congr {n v w : Nat} (h : ∀ k, k < n → v.testBit k = w.testBit k) : msbBits n v = msbBits n w := by
  induction n with
  | zero => rfl
  | succ n ih => rw [msbBits, msbBits, h n (Nat.lt_succ_self n), ih fun k hk => h k (Nat.lt_succ_of_lt hk)]

/-- Fields put side by side: the high one's bits come first (R54). -/
theorem msbBits_append (m a : Nat) {n b : Nat} (hb : b < 2 ^ n) :
    msbBits (m + n) (2 ^ n * a + b) = msbBits m a ++ msbBits n b := by
  induction m with
  | zero =>
    rw [Nat.zero_add]
    exact msbBits_congr fun k hk => by rw [Nat.testBit_two_pow_mul_add a hb, if_pos hk]
  | succ m ih =>
    have htop : (2 ^ n * a + b).testBit (m + n) = a.testBit m := by
      rw [Nat.testBit_two_pow_mul_add a hb, if_neg (Nat.not_lt.mpr (Nat.le_add_left n m)), Nat.add_sub_cancel]
    rw [Nat.add_right_comm, msbBits, htop, ih]
    rfl

/-- A token's pattern, top bit first, is its bits in stream order (R75, R76). -/
theorem msbBits_encodeNumber_token (t : Token) :
    msbBits (encodeWidth t.instr) (encodeNumber t.instr) = tokenBits t := by
  cases t with
  | lit b => exact msbBits_append 1 1 b.isLt
  | copy offset lengthField =>
    calc msbBits (13 + 4) (2 ^ 4 * offset.toNat + lengthField.toNat)
      _ = msbBits 13 offset.toNat ++ msbBits 4 lengthField.toNat := msbBits_append 13 _ lengthField.isLt
      _ = false :: msbBits 12 offset.toNat ++ msbBits 4 lengthField.toNat := by
        rw [msbBits, Nat.testBit_lt_two_pow offset.isLt]

theorem encode_token (t : Token) : encode t.instr = packBits (tokenBits t) := by
  have hclass : t.instr.encClass = .token := by cases t <;> rfl
  rw [encode, hclass, ← msbBits_encodeNumber_token]

theorem exists_token {i : Instr} (h : i.encClass = .token) : ∃ t : Token, t.instr = i := by
  cases i with
  | lit b => exact ⟨.lit b, rfl⟩
  | copy offset lengthField => exact ⟨.copy offset lengthField, rfl⟩
  | _ => cases h

theorem decode_encode_token (t : Token) : decode .token (encode t.instr) = .ok t.instr := by
  have htoken : decodeToken (packBits (tokenBits t)) 0 = .ok t := by
    simpa using tokenDecodesAnywhere t [] []
  rw [encode_token, decode, htoken]
  rfl

/-! ### Decoding what is encoded -/

/-- A command's or code's pattern fits its word. -/
theorem toNat_ofNat_encodeNumber {i : Instr} (h : i.encClass ≠ .token) :
    (BitVec.ofNat 32 (encodeNumber i)).toNat = encodeNumber i := by
  cases i with
  | lit | copy => exact absurd rfl h
  | compUnknown code => exact Nat.mod_eq_of_lt code.isLt
  | _ => rfl

/-- Settles O15: a command's word and a code's are compared as a whole, and a token is decoded where its bits stand. -/
theorem decodeEncodeRoundTrip : Obligations.DecodeEncodeRoundTrip := by
  intro i hwf
  cases hclass : i.encClass with
  | hostCommand =>
    have hnum := toNat_ofNat_encodeNumber (i := i) (by rw [hclass]; decide)
    rw [encode, hclass, decode_hostCommand_bytesLe]
    exact decodeCommand_eq_ok.mpr (mem_commandRows.mpr ⟨hclass, hnum⟩)
  | headerCode =>
    have hnum := toNat_ofNat_encodeNumber (i := i) (by rw [hclass]; decide)
    rw [encode, hclass, decode_headerCode_bytesLe, instr_compressionOf.mpr ⟨hclass, hwf, hnum⟩]
  | token =>
    obtain ⟨t, rfl⟩ := exists_token hclass
    exact decode_encode_token t

/-- Settles O11: the decoder run on each sample. -/
theorem sampleWordsDecode : Obligations.SampleWordsDecode := by
  unfold Obligations.SampleWordsDecode
  decide

end Sys2Proof

namespace Sys2Proof.Machine

open Sys2Proof Sys2Proof.Safety

/-! ### An illegal CMD word (R82) -/

theorem runCommand_of_not_ok {w : Word} (h : ¬ ∃ i, decodeCommand w = .ok i) (s : State) :
    runCommand w s = .next (raiseIllegal s) := by
  rw [runCommand]
  cases hdec : decodeCommand w with
  | ok i => exact absurd ⟨i, hdec⟩ h
  | error r => rfl

/-! ### The window addresses decoding steps reach (R79) -/

theorem windowByte_storeByte_of_ne {b : Byte} {u : Lzss} {a : BitVec 12} (h : a ≠ u.wp) :
    windowByte (storeByte b u) a = windowByte u a :=
  Mem.read_write_other fun heq => h (BitVec.eq_of_toNat_eq heq)

section
variable {u : Lzss} {p : Byte × Lzss}

theorem wp_of_emitted (hp : Emitted u p) : p.2.wp = u.wp + 1 := by
  cases hp <;> rfl

/-- A decoding step stores at `wp` alone. -/
theorem windowByte_of_emitted (hp : Emitted u p) {a : BitVec 12} (h : a ≠ u.wp) :
    windowByte p.2 a = windowByte u a := by
  cases hp <;> exact windowByte_storeByte_of_ne h

end

theorem lzSteps_succ {n : Nat} {u v : Lzss} (h : lzSteps (n + 1) u = some v) :
    ∃ p, Emitted u p ∧ lzSteps n p.2 = some v := by
  rw [lzSteps] at h
  split at h
  · next b u' hstep => exact ⟨(b, u'), emitted_of_lzStep hstep, h⟩
  · cases h

/-- `n` decoding steps advance `wp` by `n` and change no window byte `wp` did not pass. -/
theorem wp_windowByte_of_lzSteps {n : Nat} {u v : Lzss} (h : lzSteps n u = some v) :
    v.wp = u.wp + BitVec.ofNat 12 n ∧
      ∀ a, (∀ k, k < n → a ≠ u.wp + BitVec.ofNat 12 k) → windowByte v a = windowByte u a := by
  induction n generalizing u with
  | zero => cases h; exact ⟨(BitVec.add_zero _).symm, fun _ _ => rfl⟩
  | succ n ih =>
    obtain ⟨p, hp, hrest⟩ := lzSteps_succ h
    obtain ⟨hwp, hbytes⟩ := ih hrest
    have hshift : ∀ k, u.wp + BitVec.ofNat 12 (k + 1) = p.2.wp + BitVec.ofNat 12 k := by
      intro k
      rw [wp_of_emitted hp, BitVec.ofNat_add, BitVec.add_assoc, BitVec.add_comm (BitVec.ofNat 12 k)]
      rfl
    refine ⟨hwp.trans (hshift n).symm, fun a ha => ?_⟩
    have hfirst : a ≠ u.wp := by simpa using ha 0 (Nat.succ_pos n)
    have hlater : ∀ k, k < n → a ≠ p.2.wp + BitVec.ofNat 12 k :=
      fun k hk => hshift k ▸ ha (k + 1) (Nat.succ_lt_succ hk)
    exact (hbytes a hlater).trans (windowByte_of_emitted hp hfirst)

/-! ### A command on a state with another DATA_IN (R83) -/

/-- The same state, DATA_IN holding another word. -/
def withDataIn (d : Word) (s : State) : State := { s with dataIn := d }

@[simp] theorem withDataIn_cfg (d : Word) (s : State) : (withDataIn d s).cfg = s.cfg := rfl
@[simp] theorem withDataIn_prng (d : Word) (s : State) : (withDataIn d s).prng = s.prng := rfl
@[simp] theorem withDataIn_lz (d : Word) (s : State) : (withDataIn d s).lz = s.lz := rfl
@[simp] theorem withDataIn_srcIn (d : Word) (s : State) : (withDataIn d s).srcIn = s.srcIn := rfl
@[simp] theorem withDataIn_dataIn (d : Word) (s : State) : (withDataIn d s).dataIn = d := rfl

/-- The same answer, but for the next state's DATA_IN. -/
def answerWithDataIn (d : Word) : Result → Result
  | .next t => .next (withDataIn d t)
  | .fault r => .fault r
  | .refused r => .refused r

section
variable (d : Word) (s : State)

theorem drawAnd_withDataIn (value : Word → Word) :
    drawAnd value (withDataIn d s) = withDataIn d (drawAnd value s) := by
  unfold drawAnd ifSeeded
  rw [withDataIn_prng]
  split <;> rfl

theorem pullWith_withDataIn (stepUnit : Lzss → Option (Byte × Lzss)) :
    pullWith stepUnit (withDataIn d s) = withDataIn d (pullWith stepUnit s) := by
  unfold pullWith
  rw [withDataIn_lz]
  split
  · rfl
  · split <;> rfl

theorem finishUncompressed_withDataIn (payload : List Byte) :
    finishUncompressed payload (withDataIn d s) = answerWithDataIn d (finishUncompressed payload s) := by
  unfold finishUncompressed
  rw [withDataIn_cfg]
  split <;> rfl

theorem finishLzss_withDataIn (header : Header) (payload : List Byte) :
    finishLzss header payload (withDataIn d s) = answerWithDataIn d (finishLzss header payload s) := by
  unfold finishLzss
  rw [withDataIn_cfg]
  split
  · rfl
  · split
    · rfl
    · split <;> rfl

theorem finish_withDataIn (c : Compression) (header : Header) (payload : List Byte) :
    finish c header payload (withDataIn d s) = answerWithDataIn d (finish c header payload s) := by
  cases c with
  | uncompressed => exact finishUncompressed_withDataIn d s payload
  | lzss => exact finishLzss_withDataIn d s header payload
  | rle | unknown => rfl

theorem decodeWith_withDataIn (choose : Word → Compression) :
    decodeWith choose (withDataIn d s) = answerWithDataIn d (decodeWith choose s) := by
  unfold decodeWith
  rw [operandBytes_eq, operandBytes_eq, withDataIn_cfg, withDataIn_srcIn]
  split
  · rfl
  · split
    · rfl
    · exact finish_withDataIn ..

end

/-- An instruction leaves DATA_IN standing, so writing it back changes nothing. -/
theorem answerWithDataIn_exec_self (i : Instr) (s : State) : answerWithDataIn s.dataIn (exec i s) = exec i s := by
  cases h : exec i s with
  | next t =>
    obtain ⟨hdata, -⟩ := sameHost_of_executed (executed_of_exec h)
    rw [← hdata]
    rfl
  | fault | refused => rfl

theorem low8_eq_of_and_eq {v w : Word} (h : v &&& 0x000000FF = w &&& 0x000000FF) : low8 v = low8 w := by
  have hlow : ∀ x : Word, low8 (x &&& 0x000000FF) = low8 x := fun x => by
    rw [low8, BitVec.extractLsb'_and]
    exact BitVec.and_allOnes
  rw [← hlow v, ← hlow w, h]

/-- An instruction reads no more of DATA_IN than the bits its row names (R81, R83). -/
theorem exec_withDataIn {i : Instr} {d : Word} {s : State} (h : d &&& usedDataIn i = s.dataIn &&& usedDataIn i) :
    exec i (withDataIn d s) = answerWithDataIn d (exec i s) := by
  cases i with
  | prngSeed | deobWord | ckWord | lzInit =>
    obtain rfl : d = s.dataIn := BitVec.and_allOnes.symm.trans (h.trans BitVec.and_allOnes)
    exact (answerWithDataIn_exec_self _ s).symm
  | deobByte =>
    have hbyte : low8 d = low8 s.dataIn := low8_eq_of_and_eq h
    simp only [exec, execDeobByte, operandByte_eq, withDataIn_dataIn, hbyte, drawAnd_withDataIn]
    rfl
  | ckByte =>
    have hbyte : low8 d = low8 s.dataIn := low8_eq_of_and_eq h
    simp only [exec, execCkByte, operandByte_eq, withDataIn_dataIn, hbyte]
    rfl
  | prngNext => exact congrArg _ (drawAnd_withDataIn ..)
  | ckClear | ckRead => rfl
  | lzPull | lit | copy => exact congrArg _ (pullWith_withDataIn ..)
  | decode => exact decodeWith_withDataIn d s compressionOf
  | compUncompressed => exact decodeWith_withDataIn d s fun _ => .uncompressed
  | compRle => exact decodeWith_withDataIn d s fun _ => .rle
  | compLzss => exact decodeWith_withDataIn d s fun _ => .lzss
  | compUnknown code => exact decodeWith_withDataIn d s fun _ => .unknown code

end Sys2Proof.Machine

namespace Sys2Proof

open Sys2Proof.Machine Sys2Proof.Safety

/-- Settles O7: a word that meets the condition is none of the numbers 1 to 11, which are the commands' words. -/
theorem illegalCommandReported : Obligations.IllegalCommandReported := by
  intro s w rest hhost
  have hstep : step s = runCommand w { s with host := rest } := step_of_host_cons hhost
  refine ⟨fun hillegal => ?_, fun hlegal => ?_⟩
  · have hnone : ¬ ∃ i, decodeCommand w = .ok i := by
      rw [exists_decodeCommand_ok]
      omega
    exact hstep.trans (runCommand_of_not_ok hnone _)
  · obtain ⟨i, hi⟩ : ∃ i, decodeCommand w = .ok i := by
      rw [exists_decodeCommand_ok]
      omega
    obtain ⟨hclass, -⟩ := mem_commandRows.mp (decodeCommand_eq_ok.mp hi)
    exact ⟨i, hclass, hstep.trans (runCommand_of_decode hi _)⟩

/-- Settles O44: up to 4095 steps from `wp = 1` store at the addresses 1 to 4095 alone. -/
theorem offsetZeroStaysZero : Obligations.OffsetZeroStaysZero := by
  intro src limit n u hn hsteps
  obtain ⟨hwp, hbytes⟩ := wp_windowByte_of_lzSteps hsteps
  rw [freshLzss_wp] at hwp hbytes
  have hskipped : ∀ k, k < n → (0 : BitVec 12) ≠ 1 + BitVec.ofNat 12 k := by
    intro k hk
    bv_omega
  refine ⟨hbytes 0 hskipped, ?_⟩
  rw [hwp]
  bv_omega

/-- Settles O58: each instruction answers alike, up to DATA_IN itself, where the bits it reads agree. -/
theorem unusedDataInIgnored : Obligations.UnusedDataInIgnored := by
  intro i s d h
  have hexec : exec i { s with dataIn := d } = answerWithDataIn d (exec i s) := exec_withDataIn h
  exact ⟨fun t ht => by rw [hexec, ht]; rfl, fun r hr => by rw [hexec, hr]; rfl⟩

end Sys2Proof
end

section
/-! PROOFS. The obligations of spec/40_prng.md and of the deobfuscator's two commands (spec/41_deobfuscator.md R121, R122): the
seed recipe, the table it fills, and the words drawn from it. -/

namespace Sys2Proof

/-! ### Words joined of halves -/

/-- Two bit vectors side by side, the first one above the second. -/
theorem toNat_append_add {m n : Nat} (x : BitVec m) (y : BitVec n) : (x ++ y).toNat = 2 ^ n * x.toNat + y.toNat := by
  rw [BitVec.toNat_append, ← Nat.shiftLeft_add_eq_or_of_lt y.isLt, Nat.shiftLeft_eq, Nat.mul_comm]

/-- Two words joined to one of 64 bits (R100). -/
theorem toNat_join (high low : Word) :
    (high.setWidth 64 <<< 32 ||| low.setWidth 64).toNat = 2 ^ 32 * high.toNat + low.toNat := by
  rw [← BitVec.setWidth_append_eq_shiftLeft_setWidth_or, BitVec.setWidth_eq, toNat_append_add]

/-- The upper halves of two words joined to one word (R100). -/
theorem toNat_join_upper (v w : Word) :
    ((v &&& 0xFFFF0000#32) ||| (w >>> 16)).toNat = 2 ^ 16 * (v.toNat / 2 ^ 16) + w.toNat / 2 ^ 16 := by
  have hv : v = v.extractLsb' 16 16 ++ v.extractLsb' 0 16 := by
    have hjoin : v.extractLsb' 16 16 ++ v.extractLsb' 0 16 = v.extractLsb' 0 32 :=
      BitVec.extractLsb'_append_extractLsb'_eq_extractLsb' rfl
    rw [hjoin, BitVec.extractLsb'_eq_self]
  have hmask : v &&& 0xFFFF0000#32 = v.extractLsb' 16 16 ++ 0#16 := by
    calc v &&& 0xFFFF0000#32
      _ = (v.extractLsb' 16 16 ++ v.extractLsb' 0 16) &&& (BitVec.allOnes 16 ++ 0#16) := by rw [← hv]; rfl
      _ = v.extractLsb' 16 16 ++ 0#16 := by rw [BitVec.and_append, BitVec.and_allOnes, BitVec.and_zero]
  have hshift : w >>> 16 = 0#16 ++ w.extractLsb' 16 16 := by
    rw [BitVec.ushiftRight_eq_extractLsb'_of_lt (by decide), BitVec.cast_eq]
  rw [hmask, hshift, BitVec.or_append, BitVec.or_zero, BitVec.zero_or, toNat_append_add]
  simp only [BitVec.extractLsb'_toNat, Nat.shiftRight_eq_div_pow]
  omega

end Sys2Proof

namespace Sys2Proof.Machine

open Sys2Proof Sys2Proof.Safety

/-! ### The seed recipe (R100, R101) -/

/-- The 64-bit sum the recipe of R100 takes both its answers from. -/
def recipeSum (product : BitVec 64) : BitVec 64 :=
  ((product.extractLsb' 32 32 <<< 16).setWidth 64 <<< 32 ||| (product.extractLsb' 0 32).setWidth 64)
    + 0x0000FFFF00003039#64

theorem seedIterate_eq (seed : Word) :
    seedIterate seed = ((recipeSum (0x41C64E6D#64 * seed.setWidth 64)).extractLsb' 0 32,
      ((recipeSum (0x41C64E6D#64 * seed.setWidth 64)).extractLsb' 32 32 &&& 0xFFFF0000#32)
        ||| ((recipeSum (0x41C64E6D#64 * seed.setWidth 64)).extractLsb' 0 32 >>> 16)) :=
  rfl

theorem toNat_recipeSum (product : BitVec 64) : (recipeSum product).toNat
    = (2 ^ 32 * (product.toNat / 2 ^ 32 * 2 ^ 16 % 2 ^ 32) + product.toNat % 2 ^ 32 + 0x0000FFFF00003039) % 2 ^ 64 := by
  have hhigh : product.toNat / 2 ^ 32 % 2 ^ 32 = product.toNat / 2 ^ 32 := by omega
  have hconstant : (0x0000FFFF00003039#64).toNat = 0x0000FFFF00003039 := rfl
  rw [recipeSum, BitVec.toNat_add, hconstant, toNat_join, BitVec.toNat_shiftLeft, Nat.shiftLeft_eq]
  simp only [BitVec.extractLsb'_toNat, Nat.shiftRight_eq_div_pow, Nat.pow_zero, Nat.div_one, hhigh]

/-- With the product's upper word moved up by half a word, the carry out of the lower word goes through the 0xFFFF below the
moved half, so this half and the lower word are those of the product plus 0x3039. -/
theorem exists_middle_of_recipeSum (product : Nat) : ∃ middle < 2 ^ 16,
    (2 ^ 32 * (product / 2 ^ 32 * 2 ^ 16 % 2 ^ 32) + product % 2 ^ 32 + 0x0000FFFF00003039) % 2 ^ 64
      = 2 ^ 48 * ((product + 0x3039) / 2 ^ 32 % 2 ^ 16) + 2 ^ 32 * middle + (product + 0x3039) % 2 ^ 32 := by
  have hup : product / 2 ^ 32 * 2 ^ 16 % 2 ^ 32 = 2 ^ 16 * (product / 2 ^ 32 % 2 ^ 16) := by omega
  rw [hup]
  by_cases hcarry : product % 2 ^ 32 + 0x3039 < 2 ^ 32
  · have hupper : (product + 0x3039) / 2 ^ 32 = product / 2 ^ 32 := by omega
    exact ⟨0xFFFF, by decide, by rw [hupper]; omega⟩
  · have hupper : (product + 0x3039) / 2 ^ 32 = product / 2 ^ 32 + 1 := by omega
    exact ⟨0, by decide, by rw [hupper]; omega⟩

/-- The words of a 64-bit sum, from its upper half, the half word below, and its lower half. -/
theorem sum_words {upper middle low : Nat} (hupper : upper < 2 ^ 16) (hmiddle : middle < 2 ^ 16) (hlow : low < 2 ^ 32) :
    (2 ^ 48 * upper + 2 ^ 32 * middle + low) % 2 ^ 32 = low
      ∧ (2 ^ 48 * upper + 2 ^ 32 * middle + low) / 2 ^ 32 % 2 ^ 32 / 2 ^ 16 = upper := by
  omega

/-- The lower word of the recipe's sum, and the upper half of its upper word. -/
theorem recipeSum_words (product : BitVec 64) :
    (recipeSum product).toNat % 2 ^ 32 = (product.toNat + 0x3039) % 2 ^ 32
      ∧ (recipeSum product).toNat / 2 ^ 32 % 2 ^ 32 / 2 ^ 16 = (product.toNat + 0x3039) / 2 ^ 32 % 2 ^ 16 := by
  obtain ⟨middle, hmiddle, hsum⟩ := exists_middle_of_recipeSum product.toNat
  rw [toNat_recipeSum, hsum]
  exact sum_words (Nat.mod_lt _ (Nat.two_pow_pos 16)) hmiddle (Nat.mod_lt _ (Nat.two_pow_pos 32))

/-- The product fits 64 bits. -/
theorem toNat_product (seed : Word) : (0x41C64E6D#64 * seed.setWidth 64).toNat = 0x41C64E6D * seed.toNat := by
  have hseed : seed.toNat < 2 ^ 64 := by omega
  have hproduct : 0x41C64E6D * seed.toNat < 2 ^ 64 := by omega
  simp only [BitVec.toNat_mul, BitVec.toNat_setWidth, BitVec.reduceToNat, Nat.mod_eq_of_lt hseed,
    Nat.mod_eq_of_lt hproduct]

/-- The recipe is one step of a linear congruential generator (R101). -/
theorem toNat_seedIterate (seed : Word) :
    (seedIterate seed).1.toNat = (0x41C64E6D * seed.toNat + 0x3039) % 2 ^ 32
    ∧ (seedIterate seed).2.toNat = (0x41C64E6D * seed.toNat + 0x3039) / 2 ^ 16 % 2 ^ 32 := by
  obtain ⟨hlow, hupper⟩ := recipeSum_words (0x41C64E6D#64 * seed.setWidth 64)
  rw [toNat_product] at hlow hupper
  rw [seedIterate_eq]
  constructor
  · rw [BitVec.extractLsb'_toNat, Nat.shiftRight_zero, hlow]
  · rw [toNat_join_upper, BitVec.extractLsb'_toNat, BitVec.extractLsb'_toNat, Nat.shiftRight_zero,
      Nat.shiftRight_eq_div_pow, hlow, hupper]
    generalize 0x41C64E6D * seed.toNat + 0x3039 = total
    omega

/-! ### The filled table (R102) -/

theorem lcgSeed_succ (seed : Word) (n : Nat) : lcgSeed seed (n + 1) = lcgSeed (seedIterate seed).1 n := by
  obtain ⟨hseed, -⟩ := toNat_seedIterate seed
  induction n with
  | zero => exact hseed.symm
  | succ n ih => rw [lcgSeed, ih, lcgSeed]

theorem lcgWord_zero (seed : Word) : lcgWord seed 0 = (seedIterate seed).2.toNat :=
  (toNat_seedIterate seed).2.symm

theorem lcgWord_succ (seed : Word) (n : Nat) : lcgWord seed (n + 1) = lcgWord (seedIterate seed).1 n := by
  rw [lcgWord, lcgSeed_succ, lcgWord]

/-- The loop puts each word in front of the ones generated before it (R102). -/
theorem map_toNat_fillFrom (n : Nat) (seed : Word) (entries : List Word) :
    (fillFrom n seed entries).map BitVec.toNat
      = ((List.range n).map (lcgWord seed)).reverse ++ entries.map BitVec.toNat := by
  induction n generalizing seed entries with
  | zero => rfl
  | succ n ih =>
    have hlater : lcgWord seed ∘ Nat.succ = lcgWord (seedIterate seed).1 := funext (lcgWord_succ seed)
    rw [fillFrom, ih, List.map_cons, ← hlater, ← lcgWord_zero, ← List.map_map, List.range_succ_eq_map, List.map_cons,
      List.reverse_cons, List.append_assoc, List.singleton_append]

theorem fillFrom_getElem? {n k : Nat} (hk : k < n) (seed : Word) (entries : List Word) :
    (fillFrom n seed entries)[k]?.map BitVec.toNat = some (lcgWord seed (n - 1 - k)) := by
  have hlen : k < (((List.range n).map (lcgWord seed)).reverse).length := by simpa using hk
  rw [← List.getElem?_map, map_toNat_fillFrom, List.getElem?_append_left hlen, List.getElem?_eq_getElem hlen]
  simp

/-! ### The fix-up (R103) -/

/-- Clearing the bits above bit `n` and setting it. -/
theorem toNat_or_and {n : Nat} {bit mask : Word} (hbit : bit.toNat = 2 ^ n) (hmask : mask.toNat = 2 ^ (n + 1) - 1)
    (w : Word) : (bit ||| (w &&& mask)).toNat = 2 ^ n + w.toNat % 2 ^ n := by
  have hadd : 2 ^ n + w.toNat % 2 ^ n = 2 ^ n ||| w.toNat % 2 ^ n := by
    simpa using Nat.two_pow_add_eq_or_of_lt (Nat.mod_lt w.toNat (Nat.two_pow_pos n)) 1
  rw [BitVec.toNat_or, BitVec.toNat_and, hbit, hmask, Nat.and_two_pow_sub_one_eq_mod, hadd]
  refine Nat.eq_of_testBit_eq fun k => ?_
  simp only [Nat.testBit_or, Nat.testBit_two_pow, Nat.testBit_mod_two_pow]
  grind

theorem fixupFrom_getElem?_of_ne {n idx k : Nat} (h : ∀ c < n, k ≠ idx + 7 * c) (bit mask : Word) (entries : List Word) :
    (fixupFrom n bit mask idx entries)[k]? = entries[k]? := by
  induction n generalizing idx bit mask entries with
  | zero => rfl
  | succ n ih =>
    have hfirst : idx ≠ k := (h 0 (Nat.succ_pos n)).symm
    have hlater : ∀ c < n, k ≠ idx + 7 + 7 * c := fun c hc => by
      have := h (c + 1) (Nat.succ_lt_succ hc)
      omega
    rw [fixupFrom]
    split
    · rfl
    · rw [ih hlater, List.getElem?_modify_ne _ _ hfirst]

/-- With `n` iterations to go, `bit` is the one of weight `2 ^ (n - 1)` and `mask` it and those below. -/
theorem fixupFrom_getElem?_at {n c : Nat} {bit mask : Word} (hbit : bit.toNat = 2 ^ n / 2) (hmask : mask.toNat = 2 ^ n - 1)
    (hc : c < n) (idx : Nat) (entries : List Word) :
    (fixupFrom n bit mask idx entries)[idx + 7 * c]?.map BitVec.toNat
      = entries[idx + 7 * c]?.map fun w => 2 ^ (n - 1 - c) + w.toNat % 2 ^ (n - 1 - c) := by
  induction n generalizing idx c bit mask entries with
  | zero => omega
  | succ n ih =>
    have hn : bit.toNat = 2 ^ n := by rw [hbit]; omega
    have hne : bit ≠ 0 := by
      rintro rfl
      exact absurd hn (Nat.two_pow_pos n).ne
    have hbit' : (bit >>> 1).toNat = 2 ^ n / 2 := by
      rw [BitVec.toNat_ushiftRight, Nat.shiftRight_eq_div_pow, hn]
    have hmask' : (mask >>> 1).toNat = 2 ^ n - 1 := by
      rw [BitVec.toNat_ushiftRight, Nat.shiftRight_eq_div_pow, hmask]; omega
    rw [fixupFrom, if_neg hne]
    cases c with
    | zero =>
      rw [fixupFrom_getElem?_of_ne fun c _ => by omega, Nat.mul_zero, Nat.add_zero, List.getElem?_modify_eq,
        Option.map_eq_map, Option.map_map]
      exact congrArg (Option.map · _) (funext (toNat_or_and hn hmask))
    | succ c =>
      have hplace : idx + 7 * (c + 1) = idx + 7 + 7 * c := by omega
      rw [hplace, ih hbit' hmask' (Nat.lt_of_succ_lt_succ hc), List.getElem?_modify_ne _ _ (by omega),
        Nat.add_sub_cancel, Nat.add_comm c, Nat.sub_sub]

theorem fixup_getElem?_of_ne {k : Nat} (h : ∀ c < 32, k ≠ 3 + 7 * c) (entries : List Word) :
    (fixup entries)[k]? = entries[k]? :=
  fixupFrom_getElem?_of_ne h ..

theorem fixup_getElem?_at {c : Nat} (hc : c < 32) (entries : List Word) :
    (fixup entries)[3 + 7 * c]?.map BitVec.toNat
      = entries[3 + 7 * c]?.map fun w => 2 ^ (31 - c) + w.toNat % 2 ^ (31 - c) :=
  fixupFrom_getElem?_at (by decide) (by decide) hc ..

theorem fixup_fill_getElem? (seed : Word) {k : Nat} (hk : k < tableSize) :
    (fixup (fill seed))[k]?.map BitVec.toNat = some (seededEntry seed k) := by
  have hfill : (fill seed)[k]?.map BitVec.toNat = some (lcgWord seed (249 - k)) := fillFrom_getElem? hk seed []
  rw [seededEntry]
  by_cases h : k % 7 = 3 ∧ k ≤ 220
  · obtain ⟨c, hc, rfl⟩ : ∃ c < 32, k = 3 + 7 * c := ⟨(k - 3) / 7, by omega, by omega⟩
    have hshift : (3 + 7 * c - 3) / 7 = c := by omega
    obtain ⟨w, hw, hval⟩ := Option.map_eq_some_iff.mp hfill
    rw [if_pos h, fixup_getElem?_at hc, hshift, hw, Option.map_some, hval]
  · rw [if_neg h, fixup_getElem?_of_ne (fun c hc => by omega), hfill]

theorem constructPrng_table_toList (seed : Word) : (constructPrng seed).table.toList = fixup (fill seed) := by
  rw [constructPrng, Vector.toList_mk]

/-- The table PRNG_SEED leaves (R102, R103). -/
theorem toNat_constructPrng_table (seed : Word) {k : Nat} (hk : k < tableSize) :
    ((constructPrng seed).table[k]).toNat = seededEntry seed k := by
  have hval := fixup_fill_getElem? seed hk
  rw [← constructPrng_table_toList, Vector.getElem?_toList, Vector.getElem?_eq_getElem hk] at hval
  exact Option.some.inj hval

/-! ### The word stream (R105, R108) -/

/-- A draw overwrites the entry at the first cursor, and no other. -/
theorem drawWord_table_getElem (p : Prng) {k : Nat} (hk : k < tableSize) :
    (drawWord p).2.table[k] = if p.i.val = k then (drawWord p).1 else p.table[k] :=
  Vector.getElem_set p.i.isLt hk

/-- The 250 words a table holds, then the words drawn from it: call `n + 1` draws the word at place `250 + n`. -/
def streamWord (p : Prng) (m : Nat) : Word :=
  if h : m < tableSize then p.table[m] else nthWord p (m - tableSize)

theorem streamWord_of_lt (p : Prng) {m : Nat} (h : m < tableSize) : streamWord p m = p.table[m] :=
  dif_pos h

theorem streamWord_add (p : Prng) (n : Nat) : streamWord p (n + tableSize) = nthWord p n := by
  rw [streamWord, dif_neg (Nat.not_lt.mpr (Nat.le_add_left ..)), Nat.add_sub_cancel]

theorem val_cursor_succ {c : Fin tableSize} {a n : Nat} (h : c.val = (a + n) % 250) : (c + 1).val = (a + (n + 1)) % 250 := by
  rw [Fin.val_add, h, Fin.val_one', Nat.mod_add_mod, Nat.add_mod_mod, Nat.add_assoc]

theorem i_drawMany (p : Prng) (n : Nat) : (drawMany n p).i.val = (p.i.val + n) % 250 := by
  induction n with
  | zero => exact (Nat.mod_eq_of_lt p.i.isLt).symm
  | succ n ih => exact val_cursor_succ ih

theorem j_drawMany (p : Prng) (n : Nat) : (drawMany n p).j.val = (p.j.val + n) % 250 := by
  induction n with
  | zero => exact (Nat.mod_eq_of_lt p.j.isLt).symm
  | succ n ih => exact val_cursor_succ ih

section
variable {p : Prng} (hi : p.i.val = 0)
include hi

/-- After `n` calls the table holds the 250 words from place `n` of the stream on, each at its place modulo 250. -/
theorem table_drawMany {n m : Nat} (hn : n ≤ m) (hm : m < n + 250) :
    (drawMany n p).table[m % 250]'(Nat.mod_lt _ (by decide)) = streamWord p m := by
  induction n with
  | zero =>
    rw [Nat.zero_add] at hm
    simp only [drawMany, Nat.mod_eq_of_lt hm]
    exact (streamWord_of_lt p hm).symm
  | succ n ih =>
    have hcursor : (drawMany n p).i.val = n % 250 := by rw [i_drawMany, hi, Nat.zero_add]
    simp only [drawMany, drawWord_table_getElem, hcursor]
    by_cases hlast : m = n + 250
    · rw [if_pos (by omega), hlast]
      exact (streamWord_add p n).symm
    · rw [if_neg (by omega), ih (by omega) (by omega)]

/-- Each word drawn is the XOR of the words 250 and 147 places before it (R105). -/
theorem nthWord_eq_streamWord (hj : p.j.val = 103) (n : Nat) :
    nthWord p n = streamWord p n ^^^ streamWord p (n + 103) := by
  have hcursor : (drawMany n p).i.val = n % 250 := by rw [i_drawMany, hi, Nat.zero_add]
  have hahead : (drawMany n p).j.val = (n + 103) % 250 := by rw [j_drawMany, hj, Nat.add_comm]
  rw [nthWord, drawWord_value, ← table_drawMany hi (Nat.le_refl n) (by omega),
    ← table_drawMany hi (Nat.le_add_right n 103) (by omega)]
  simp only [Fin.getElem_fin, hcursor, hahead]

end

/-! ### The commands that draw a word (R107, R121, R122) -/

theorem drawAnd_of_seeded {s : State} (value : Word → Word) (h : s.prng.seeded = true) :
    drawAnd value s = complete (value (drawWord s.prng).1) (setPrng (drawWord s.prng).2 s) := by
  obtain ⟨-, heq⟩ | ⟨hseeded, -⟩ := drawAnd_cases value s
  · exact heq
  · rw [h] at hseeded; cases hseeded

/-- A reader of a seeded PRNG draws one word, whatever value it makes of it. -/
theorem drewOneWord_drawAnd {s : State} (value : Word → Word) (h : s.prng.seeded = true) :
    DrewOneWord s (drawAnd value s) (drawWord s.prng).1 := by
  rw [drawAnd_of_seeded value h]
  refine ⟨rfl, fun k => ?_, Fin.val_add .., Fin.val_add .., h, rfl, rfl, rfl, by simp [SameHost]⟩
  simp only [complete_prng, setPrng_prng, Fin.getElem_fin, drawWord_table_getElem, Fin.ext_iff, eq_comm]

theorem reports_drawAnd {s : State} (value : Word → Word) (h : s.prng.seeded = true) :
    Reports (drawAnd value s) 0x00 (value (drawWord s.prng).1) 0 := by
  rw [drawAnd_of_seeded value h]
  exact ⟨rfl, rfl, rfl⟩

theorem toNat_low8 (v : Word) : (low8 v).toNat = v.toNat % 256 := by
  rw [low8, BitVec.extractLsb'_toNat, Nat.shiftRight_zero]

end Sys2Proof.Machine

namespace Sys2Proof

open Sys2Proof.Machine Sys2Proof.Safety

/-- Settles O25: each word is the XOR of two places of the stream, which are table entries below place 250 and words drawn
before from there on. -/
theorem laggedXorStream : Obligations.LaggedXorStream := by
  intro seed n p
  have hword : nthWord p n = streamWord p n ^^^ streamWord p (n + 103) := nthWord_eq_streamWord rfl rfl n
  have hentry : ∀ m < 250, (streamWord p m).toNat = seededEntry seed m := fun m hm => by
    rw [streamWord_of_lt p hm, toNat_constructPrng_table]
  have hdrawn : ∀ m, 250 ≤ m → streamWord p m = nthWord p (m - 250) := fun m hm => by
    rw [← streamWord_add, Nat.sub_add_cancel hm]
  have hback : n + 103 - 250 = n - 147 := by omega
  refine ⟨?_, ?_, fun hn => ?_, fun hlo hhi => ?_, fun hn => ?_⟩
  · rw [i_drawMany, constructPrng_i, Fin.val_zero, Nat.zero_add]
  · rw [j_drawMany, constructPrng_j, Nat.add_comm]
    rfl
  · rw [hword, BitVec.toNat_xor, hentry n (by omega), hentry (n + 103) (by omega)]
  · rw [hword, BitVec.toNat_xor, hentry n hhi, hdrawn (n + 103) (by omega), hback]
  · rw [hword, hdrawn n hn, hdrawn (n + 103) (by omega), hback]

/-- Settles O19: the recipe's two words, and a 31-bit multiplier times a 32-bit seed. -/
theorem seedIterateClosedForm : Obligations.SeedIterateClosedForm := by
  intro seed
  exact ⟨by omega, toNat_seedIterate seed⟩

/-- Settles O20: the constructed PRNG replaces the old one, and nothing else but the report changes. -/
theorem prngSeedBuildsTable : Obligations.PrngSeedBuildsTable := by
  intro s
  refine ⟨_, rfl, fun k => toNat_constructPrng_table _ k.isLt, ?_⟩
  simp [Reports, SameHost]

/-- Settles O21: the word itself is the value reported. -/
theorem prngNextDrawsWord : Obligations.PrngNextDrawsWord :=
  fun _ hs => ⟨_, _, rfl, drewOneWord_drawAnd _ hs, reports_drawAnd _ hs⟩

/-- Settles O22: the value reported is the group XOR the word. -/
theorem deobWordXorsWord : Obligations.DeobWordXorsWord :=
  fun _ hs => ⟨_, _, rfl, drewOneWord_drawAnd _ hs, reports_drawAnd _ hs⟩

/-- Settles O23: the value reported is the XOR of two bytes, widened. -/
theorem deobByteXorsLowByte : Obligations.DeobByteXorsLowByte := by
  intro s hs
  obtain ⟨hcode, hresult, hinfo⟩ := reports_drawAnd (fun v => zext32 (operandByte s ^^^ low8 v)) hs
  refine ⟨_, _, rfl, drewOneWord_drawAnd _ hs, ?_, ?_, hcode, hinfo⟩
  · rw [hresult, toNat_zext32, BitVec.toNat_xor, operandByte_eq, toNat_low8, toNat_low8]
  · rw [hresult, toNat_zext32]
    exact BitVec.isLt _

end Sys2Proof
end

section
/-! PROOFS. The status codes of spec/60_exceptions.md R204, and the sealed containers on which DECODE ends with each of its own. -/

namespace Sys2Proof.Machine

open Sys2Proof Sys2Proof.Safety

/-! ### Sealed containers (spec/41_deobfuscator.md R125, spec/44_orchestrator.md R182, R183) -/

theorem le32_bytesLe_append (v : Word) (rest : List Byte) : le32 (bytesLe v ++ rest) 0 = v :=
  le32_bytesLe v

/-- A group is deobfuscated as a word. -/
theorem deobBytes_bytesLe_append (v : Word) (rest : List Byte) (p : Prng) :
    (deobBytes (bytesLe v ++ rest) p).1 = bytesLe (v ^^^ (drawWord p).1) ++ (deobBytes rest (drawWord p).2).1 := by
  have hgroup : le32Of (wordByte v 0) (wordByte v 1) (wordByte v 2) (wordByte v 3) = v := le32_bytesLe v
  simp only [bytesLe, List.cons_append, List.nil_append, deobBytes, hgroup]

/-- Deobfuscating twice draws the same words twice. -/
theorem deobBytes_deobBytes : ∀ (bytes : List Byte) (p : Prng), (deobBytes (deobBytes bytes p).1 p).1 = bytes
  | b0 :: b1 :: b2 :: b3 :: rest, p => by
    rw [deobBytes]
    simp only [deobBytes_bytesLe_append, deobBytes_deobBytes rest, BitVec.xor_assoc, BitVec.xor_self, BitVec.xor_zero,
      bytesLe_le32Of, List.cons_append, List.nil_append]
  | [b0, b1, b2], p => by simp [deobBytes]
  | [b0, b1], p => by simp [deobBytes]
  | [b0], p => by simp [deobBytes]
  | [], p => rfl

theorem length_sealContainer (seed : Word) (body : List Byte) : (sealContainer seed body).length = body.length + 4 := by
  rw [sealContainer, List.length_append, deobBytes_length, Nat.add_comm]
  rfl

@[simp] theorem deobfuscate_sealContainer (seed : Word) (body : List Byte) :
    deobfuscate (sealContainer seed body) = .ok body := by
  rw [deobfuscate_ok (by rw [length_sealContainer]; omega), sealContainer, le32_bytesLe_append]
  exact congrArg Except.ok (deobBytes_deobBytes body _)

/-- A header's four words stand at its bytes 0, 4, 8 and 12 (spec/30_encoding.md R72). -/
theorem le32_headerBytes (size ckd cku code : Word) (payload : List Byte) :
    le32 (headerBytes size ckd cku code ++ payload) 0 = size ∧ le32 (headerBytes size ckd cku code ++ payload) 4 = ckd
      ∧ le32 (headerBytes size ckd cku code ++ payload) 8 = cku
      ∧ le32 (headerBytes size ckd cku code ++ payload) 12 = code :=
  ⟨le32_bytesLe size, le32_bytesLe ckd, le32_bytesLe cku, le32_bytesLe code⟩

/-- DECODE reads a sealed container's header back and checks its payload; then the code's step 3 runs. -/
theorem decodeWith_sealContainer (choose : Word → Compression) {s : State} {seed size ckd cku code : Word}
    {payload : List Byte} (hsrc : s.srcIn = sealContainer seed (headerBytes size ckd cku code ++ payload))
    (hpayload : payload ≠ []) (hfits : payload.length + 20 ≤ s.cfg.maxInLen) :
    decodeWith choose s = if checksum payload = ckd then finish (choose code) ⟨size, ckd, cku, code⟩ payload s
      else .next (failed s 0x03 0) := by
  have hlen : s.srcIn.length = payload.length + 20 := by
    rw [hsrc, length_sealContainer, List.length_append, Nat.add_comm _ payload.length]
    rfl
  have hpos : 0 < payload.length := List.length_pos_of_ne_nil hpayload
  obtain ⟨hshort, -⟩ | ⟨-, d, hd, -, h⟩ := decodeWith_steps choose s (by omega)
  · omega
  · rw [hsrc, deobfuscate_sealContainer] at hd
    obtain rfl : headerBytes size ckd cku code ++ payload = d := Except.ok.inj hd
    obtain ⟨hsize, hckd, hcku, hcode⟩ := le32_headerBytes size ckd cku code payload
    have hdrop : (headerBytes size ckd cku code ++ payload).drop 16 = payload := rfl
    rw [hsize, hckd, hcku, hcode, hdrop] at h
    obtain ⟨hne, heq⟩ | ⟨hsum, heq⟩ := h
    · rw [if_neg hne, heq]
    · rw [if_pos hsum, heq]

/-! ### The status codes an instruction can end with (spec/60_exceptions.md R204) -/

/-- Some state makes `run` end with this STATUS. -/
def EndsWith (run : State → Result) (code : BitVec 8) : Prop := ∃ s t, run s = .next t ∧ t.statusCode = code

/-- A command that always completes ends with OK. -/
theorem endsWith_of_completes {run : State → Result} (h : ∀ s, ∃ v u, run s = .next (complete v u)) (code : BitVec 8) :
    EndsWith run code ↔ code ∈ [(0x00 : BitVec 8)] := by
  rw [List.mem_singleton]
  constructor
  · rintro ⟨s, t, ht, rfl⟩
    obtain ⟨v, u, hrun⟩ := h s
    rw [hrun] at ht
    cases ht
    rfl
  · rintro rfl
    obtain ⟨v, u, hrun⟩ := h State.reset
    exact ⟨_, _, hrun, rfl⟩

/-- The PRNG's readers end with OK or NotSeeded (R106, R107, R121, R122). -/
theorem endsWith_drawAnd (value : State → Word → Word) (code : BitVec 8) :
    EndsWith (fun s => .next (drawAnd (value s) s)) code ↔ code ∈ [(0x00 : BitVec 8), 0x08] := by
  simp only [List.mem_cons, List.not_mem_nil, or_false]
  constructor
  · rintro ⟨s, t, ht, rfl⟩
    cases ht
    obtain ⟨-, h⟩ | ⟨-, h⟩ := drawAnd_cases (value s) s <;> rw [h]
    · exact .inl rfl
    · exact .inr rfl
  · rintro (rfl | rfl)
    · exact ⟨setPrng (constructPrng 0) State.reset, _, rfl, congrArg State.statusCode (drawAnd_of_seeded _ rfl)⟩
    · exact ⟨State.reset, _, rfl, congrArg State.statusCode (drawAnd_of_not_seeded _ rfl)⟩

section
variable {stepUnit : Lzss → Option (Byte × Lzss)} {s : State} (hlimit : s.lz.outCount ≠ s.lz.limit)
include hlimit

theorem pullWith_of_some {p : Byte × Lzss} (h : stepUnit s.lz = some p) :
    pullWith stepUnit s = complete (zext32 p.1) (setLzss (countByte p.2) s) := by
  rw [pullWith, if_neg hlimit, h]

theorem pullWith_of_none (h : stepUnit s.lz = none) :
    pullWith stepUnit s = raiseErr .prematureEnd s.lz.outCount s := by
  rw [pullWith, if_neg hlimit, h]

end

/-- A pull ends with OK, PrematureEnd or SizeReached (R157, R158): at the limit of a fresh decompressor, and below it with
three bytes and with none. -/
theorem endsWith_pullWith {stepUnit : Lzss → Option (Byte × Lzss)}
    (hruns : (stepUnit (freshLzss [0, 0, 0] 1)).isSome) (hends : stepUnit (freshLzss [] 1) = none) (code : BitVec 8) :
    EndsWith (fun s => .next (pullWith stepUnit s)) code ↔ code ∈ [(0x00 : BitVec 8), 0x07, 0x0A] := by
  simp only [List.mem_cons, List.not_mem_nil, or_false]
  constructor
  · rintro ⟨s, t, ht, rfl⟩
    cases ht
    obtain ⟨-, h⟩ | ⟨-, -, h⟩ | ⟨-, b, u, -, h⟩ := pullWith_cases stepUnit s <;> rw [h]
    · exact .inr (.inr rfl)
    · exact .inr (.inl rfl)
    · exact .inl rfl
  · rintro (rfl | rfl | rfl)
    · obtain ⟨p, hp⟩ := Option.isSome_iff_exists.mp hruns
      exact ⟨setLzss (freshLzss [0, 0, 0] 1) State.reset, _, rfl,
        congrArg State.statusCode (pullWith_of_some (by decide) hp)⟩
    · exact ⟨setLzss (freshLzss [] 1) State.reset, _, rfl,
        congrArg State.statusCode (pullWith_of_none (by decide) hends)⟩
    · exact ⟨setLzss (freshLzss [] 0) State.reset, _, rfl, rfl⟩

theorem runToken_three_bytes (t : Token) : (runToken t (freshLzss [0, 0, 0] 1)).isSome := by
  cases t <;> rfl

theorem runToken_no_bytes (t : Token) : runToken t (freshLzss [] 1) = none := by
  cases t <;> rfl

/-- LZ_INIT ends with OK where it is not refused (R150, R213). -/
theorem endsWith_execLzInit (code : BitVec 8) : EndsWith execLzInit code ↔ code ∈ [(0x00 : BitVec 8)] := by
  rw [List.mem_singleton]
  constructor
  · rintro ⟨s, t, ht, rfl⟩
    rw [execLzInit] at ht
    split at ht <;> cases ht
    rfl
  · rintro rfl
    exact ⟨State.reset, _, if_neg (by decide), rfl⟩

/-- The codes DECODE's step 3 can end with (spec/44_orchestrator.md R184 to R187). -/
def finishCodes : Compression → List (BitVec 8)
  | .uncompressed => [0x00]
  | .rle => [0x05]
  | .lzss => [0x00, 0x04, 0x07]
  | .unknown _ => [0x06]

theorem statusCode_of_finish {c : Compression} {h : Header} {payload : List Byte} {s t : State}
    (ht : finish c h payload s = .next t) : t.statusCode ∈ finishCodes c := by
  cases c with
  | uncompressed =>
    simp only [finish, finishUncompressed] at ht
    split at ht
    · cases ht
    · cases ht; simp [finishCodes]
  | rle => cases ht; simp [finishCodes, errCode]
  | lzss =>
    simp only [finish, finishLzss] at ht
    split at ht
    · cases ht
    · split at ht
      · next e he => cases ht; simp [finishCodes, decompressFrom_error he, errCode]
      · split at ht
        · cases ht; simp [finishCodes]
        · cases ht; simp [finishCodes, errCode]
  | unknown code => cases ht; simp [finishCodes, errCode]

/-- A state with a container of one payload byte 0, whose checksum is 0, on SRC_IN. -/
def containerState (size ckd cku code : Word) : State :=
  { State.reset with srcIn := sealContainer 0 (headerBytes size ckd cku code ++ [0]) }

theorem decodeWith_containerState (choose : Word → Compression) (size ckd cku code : Word) :
    decodeWith choose (containerState size ckd cku code)
      = if 0 = ckd then finish (choose code) ⟨size, ckd, cku, code⟩ [0] (containerState size ckd cku code)
        else .next (failed (containerState size ckd cku code) 0x03 0) := by
  have hfits : [(0 : Byte)].length + 20 ≤ (containerState size ckd cku code).cfg.maxInLen := Config.widest.maxInLen_lo
  exact decodeWith_sealContainer choose rfl (by simp) hfits

/-- Step 3 ends with each of its codes for some header. -/
theorem exists_finish_statusCode {c : Compression} {status : BitVec 8} (h : status ∈ finishCodes c) (code : Word) :
    ∃ size cku t, finish c ⟨size, 0, cku, code⟩ [0] (containerState size 0 cku code) = .next t
      ∧ t.statusCode = status := by
  cases c with
  | uncompressed =>
    obtain rfl := List.mem_singleton.mp h
    exact ⟨0, 0, _, rfl, rfl⟩
  | rle =>
    obtain rfl := List.mem_singleton.mp h
    exact ⟨0, 0, _, rfl, rfl⟩
  | lzss =>
    simp only [finishCodes, List.mem_cons, List.not_mem_nil, or_false] at h
    obtain rfl | rfl | rfl := h
    · exact ⟨0, 0, _, rfl, rfl⟩
    · exact ⟨0, 1, _, rfl, rfl⟩
    · have hend : decompress [0] 1 = .error ⟨.prematureEnd, 0⟩ := by decide
      refine ⟨1, 0, failed (containerState 1 0 0 code) 0x07 0, ?_, rfl⟩
      simp only [finish, finishLzss, hend]
      rfl
  | unknown code =>
    obtain rfl := List.mem_singleton.mp h
    exact ⟨0, 0, _, rfl, rfl⟩

/-- DECODE ends with one of its first two steps' errors, or as the step 3 it chooses does (R181). -/
theorem endsWith_decodeWith (choose : Word → Compression) (status : BitVec 8) :
    EndsWith (decodeWith choose) status ↔
      status = 0x01 ∨ status = 0x03 ∨ ∃ code, status ∈ finishCodes (choose code) := by
  constructor
  · rintro ⟨s, t, ht, rfl⟩
    by_cases hlong : s.cfg.maxInLen < s.srcIn.length
    · rw [decodeWith_tooLong choose hlong] at ht
      cases ht
    · obtain ⟨-, h⟩ | ⟨-, d, -, -, ⟨-, h⟩ | ⟨-, h⟩⟩ := decodeWith_steps choose s (Nat.not_lt.mp hlong) <;>
        rw [h] at ht
      · cases ht; exact .inl rfl
      · cases ht; exact .inr (.inl rfl)
      · exact .inr (.inr ⟨_, statusCode_of_finish ht⟩)
  · rintro (rfl | rfl | ⟨code, hcode⟩)
    · exact ⟨State.reset, _, rfl, rfl⟩
    · exact ⟨containerState 0 1 0 0, _, (decodeWith_containerState ..).trans (if_neg (by decide)), rfl⟩
    · obtain ⟨size, cku, t, ht, rfl⟩ := exists_finish_statusCode hcode code
      exact ⟨containerState size 0 cku code, t, (decodeWith_containerState ..).trans ((if_pos rfl).trans ht), rfl⟩

theorem finishCodes_subset (c : Compression) : finishCodes c ⊆ [0x00, 0x04, 0x05, 0x06, 0x07] := by
  cases c <;> simp [finishCodes]

theorem endsWith_execDecode (status : BitVec 8) :
    EndsWith execDecode status ↔ status ∈ [(0x01 : BitVec 8), 0x03, 0x00, 0x04, 0x05, 0x06, 0x07] := by
  have hcodes : (∃ code, status ∈ finishCodes (compressionOf code)) ↔
      status ∈ [(0x00 : BitVec 8), 0x04, 0x05, 0x06, 0x07] := by
    constructor
    · rintro ⟨code, h⟩
      exact finishCodes_subset _ h
    · simp only [List.mem_cons, List.not_mem_nil, or_false]
      rintro (rfl | rfl | rfl | rfl | rfl)
      · exact ⟨0, by decide⟩
      · exact ⟨2, by decide⟩
      · exact ⟨1, by decide⟩
      · exact ⟨3, by decide⟩
      · exact ⟨2, by decide⟩
  rw [List.mem_cons, List.mem_cons, ← hcodes]
  exact endsWith_decodeWith compressionOf status

/-- A compression code is the DECODE whose step 3 it fixes. -/
theorem endsWith_decodeWith_const (c : Compression) (status : BitVec 8) :
    EndsWith (decodeWith fun _ => c) status ↔ status ∈ 0x01 :: 0x03 :: finishCodes c := by
  rw [endsWith_decodeWith, exists_const, List.mem_cons, List.mem_cons]

theorem endsWith_exec (i : Instr) (status : BitVec 8) : EndsWith (exec i) status ↔ status ∈ statusCodes i := by
  cases i with
  | prngSeed | ckClear | ckByte | ckWord | ckRead => exact endsWith_of_completes (fun s => ⟨_, _, rfl⟩) status
  | lzInit => exact endsWith_execLzInit status
  | prngNext => exact endsWith_drawAnd (fun _ v => v) status
  | deobWord => exact endsWith_drawAnd (fun s v => operandWord s ^^^ v) status
  | deobByte => exact endsWith_drawAnd (fun s v => zext32 (operandByte s ^^^ low8 v)) status
  | lzPull => exact endsWith_pullWith rfl rfl status
  | lit b => exact endsWith_pullWith (runToken_three_bytes (.lit b)) (runToken_no_bytes (.lit b)) status
  | copy offset lengthField =>
    exact endsWith_pullWith (runToken_three_bytes (.copy ..)) (runToken_no_bytes (.copy ..)) status
  | decode => exact (endsWith_execDecode status).trans (List.Perm.mem_iff (by decide))
  | compUncompressed => exact (endsWith_decodeWith_const .uncompressed status).trans (List.Perm.mem_iff (by decide))
  | compRle => exact endsWith_decodeWith_const .rle status
  | compLzss => exact (endsWith_decodeWith_const .lzss status).trans (List.Perm.mem_iff (by decide))
  | compUnknown code => exact endsWith_decodeWith_const (.unknown code) status

end Sys2Proof.Machine

namespace Sys2Proof

open Sys2Proof.Machine Sys2Proof.Safety

/-- Settles O56: an instruction's codes are those of the shared operation it is, and no decoder error is a command. -/
theorem statusCodesPerCommand : Obligations.StatusCodesPerCommand := by
  refine ⟨endsWith_exec, fun w r s hw => ⟨raiseIllegal s, runCommand_of_not_ok ?_ s, rfl⟩⟩
  rintro ⟨i, hi⟩
  rw [hw] at hi
  cases hi

end Sys2Proof
end

section
/-! PROOFS. The deobfuscator of spec/41_deobfuscator.md: the words a buffer draws, its bytes one by one, its round trip, and
the commands that stream it. -/

namespace Sys2Proof.Machine

open Sys2Proof Sys2Proof.Safety

/-! ### A buffer as complete groups, then 0 to 3 trailing bytes (R120) -/

/-- R120's two loops as an induction: a group in front of a buffer, or a trailing byte in front of at most two more. -/
theorem groupInduction {motive : List Byte → Prop} (nil : motive [])
    (trailing : ∀ b rest, rest.length < 3 → motive rest → motive (b :: rest))
    (group : ∀ b0 b1 b2 b3 rest, motive rest → motive (b0 :: b1 :: b2 :: b3 :: rest)) : ∀ bytes, motive bytes
  | b0 :: b1 :: b2 :: b3 :: rest => group b0 b1 b2 b3 rest (groupInduction nil trailing group rest)
  | [b0, b1, b2] => trailing b0 [b1, b2] (Nat.le_refl 3) (groupInduction nil trailing group [b1, b2])
  | [b0, b1] => trailing b0 [b1] (Nat.le_succ 2) (groupInduction nil trailing group [b1])
  | [b0] => trailing b0 [] (Nat.zero_lt_succ 2) nil
  | [] => nil

section
variable (b : Byte) {rest : List Byte} (hshort : rest.length < 3)
include hshort

theorem deobBytes_trailing (p : Prng) : deobBytes (b :: rest) p =
    ((b ^^^ low8 (drawWord p).1) :: (deobBytes rest (drawWord p).2).1, (deobBytes rest (drawWord p).2).2) := by
  match rest, hshort with
  | [], _ | [_], _ | [_, _], _ => rfl

theorem deobCommands_trailing : deobCommands (b :: rest) = (.deobByte, zext32 b) :: deobCommands rest := by
  match rest, hshort with
  | [], _ | [_], _ | [_, _], _ => rfl

end

/-- A group is XORed byte by byte with its word (spec/20_memory.md R55). -/
theorem deobBytes_group (b0 b1 b2 b3 : Byte) (rest : List Byte) (p : Prng) :
    (deobBytes (b0 :: b1 :: b2 :: b3 :: rest) p).1 =
      (b0 ^^^ wordByte (drawWord p).1 0) :: (b1 ^^^ wordByte (drawWord p).1 1) :: (b2 ^^^ wordByte (drawWord p).1 2) ::
        (b3 ^^^ wordByte (drawWord p).1 3) :: (deobBytes rest (drawWord p).2).1 := by
  rw [deobBytes]
  simp only [bytesLe_xor, bytesLe_le32Of]
  rfl

/-- One command a group and one a trailing byte (R123). -/
theorem length_deobCommands (bytes : List Byte) :
    (deobCommands bytes).length = bytes.length / 4 + bytes.length % 4 := by
  induction bytes using groupInduction with
  | nil => rfl
  | trailing b rest hshort ih =>
    rw [deobCommands_trailing b hshort, List.length_cons, List.length_cons, ih]
    omega
  | group b0 b1 b2 b3 rest ih =>
    simp only [deobCommands, List.length_cons, ih]
    omega

/-! ### The words of a generator that has drawn one (spec/40_prng.md R105) -/

theorem drawMany_succ (n : Nat) (p : Prng) : drawMany (n + 1) p = drawMany n (drawWord p).2 := by
  induction n with
  | zero => rfl
  | succ n ih => exact congrArg (fun q => (drawWord q).2) ih

theorem nthWord_succ (p : Prng) (n : Nat) : nthWord p (n + 1) = nthWord (drawWord p).2 n :=
  congrArg (fun q => (drawWord q).1) (drawMany_succ n p)

/-- Deobfuscating draws as many words as there are commands (R123). -/
theorem deobBytes_prng (bytes : List Byte) (p : Prng) :
    (deobBytes bytes p).2 = drawMany (deobCommands bytes).length p := by
  induction bytes using groupInduction generalizing p with
  | nil => rfl
  | trailing b rest hshort ih =>
    rw [deobBytes_trailing b hshort, deobCommands_trailing b hshort, List.length_cons, drawMany_succ]
    exact ih _
  | group b0 b1 b2 b3 rest ih =>
    rw [deobCommands, List.length_cons, drawMany_succ]
    exact ih _

/-! ### The byte each input byte is XORed with (R120, R123) -/

/-- What byte `k` of an `n`-byte buffer is XORed with: a byte of its group's word, or the low byte of a word of its own. -/
def keyByte (p : Prng) (n k : Nat) : Byte :=
  if k < 4 * (n / 4) then wordByte (nthWord p (k / 4)) (k % 4) else low8 (nthWord p (n / 4 + k % 4))

theorem keyByte_of_group (p : Prng) {n k : Nat} (h : k < 4 * (n / 4)) :
    keyByte p n k = wordByte (nthWord p (k / 4)) (k % 4) := if_pos h

theorem keyByte_of_trailing (p : Prng) {n k : Nat} (h : 4 * (n / 4) ≤ k) :
    keyByte p n k = low8 (nthWord p (n / 4 + k % 4)) := if_neg (Nat.not_lt.mpr h)

/-- The first group uses the first word. -/
theorem keyByte_first_group (p : Prng) (n : Nat) {k : Nat} (hk : k < 4) :
    keyByte p (n + 4) k = wordByte (drawWord p).1 k := by
  rw [keyByte_of_group p (by omega), Nat.div_eq_of_lt hk, Nat.mod_eq_of_lt hk]
  rfl

/-- What follows a group uses the words after the first. -/
theorem keyByte_after_group (p : Prng) (n k : Nat) : keyByte p (n + 4) (k + 4) = keyByte (drawWord p).2 n k := by
  have hn : (n + 4) / 4 = n / 4 + 1 := Nat.add_div_right n (by decide)
  have hk : (k + 4) / 4 = k / 4 + 1 := Nat.add_div_right k (by decide)
  have hmod : (k + 4) % 4 = k % 4 := Nat.add_mod_right k 4
  by_cases h : k < 4 * (n / 4)
  · rw [keyByte_of_group _ h, keyByte_of_group p (by omega), hk, hmod, nthWord_succ]
  · rw [keyByte_of_trailing _ (Nat.not_lt.mp h), keyByte_of_trailing p (n := n + 4) (by omega), hn, hmod,
      Nat.add_right_comm, nthWord_succ]

/-- With no complete group, each byte uses a word of its own. -/
theorem keyByte_no_group (p : Prng) {n k : Nat} (hn : n < 4) (hk : k < n) : keyByte p n k = low8 (nthWord p k) := by
  rw [keyByte_of_trailing p (by omega), Nat.div_eq_of_lt hn, Nat.mod_eq_of_lt (by omega), Nat.zero_add]

theorem deobBytes_getD (bytes : List Byte) (p : Prng) {k : Nat} (hk : k < bytes.length) :
    (deobBytes bytes p).1.getD k 0 = bytes.getD k 0 ^^^ keyByte p bytes.length k := by
  induction bytes using groupInduction generalizing p k with
  | nil => cases hk
  | trailing b rest hshort ih =>
    rw [deobBytes_trailing b hshort, keyByte_no_group p (n := (b :: rest).length) (Nat.succ_lt_succ hshort) hk]
    cases k with
    | zero => rfl
    | succ k =>
      have hk' : k < rest.length := Nat.lt_of_succ_lt_succ hk
      rw [nthWord_succ, ← keyByte_no_group _ (Nat.lt_succ_of_lt hshort) hk']
      exact ih _ hk'
  | group b0 b1 b2 b3 rest ih =>
    rw [deobBytes_group]
    simp only [List.length_cons]
    match k, hk with
    | 0, _ | 1, _ | 2, _ | 3, _ =>
      rw [keyByte_first_group p rest.length (by decide)]
      rfl
    | k + 4, hk =>
      rw [keyByte_after_group]
      exact ih _ (by simpa using hk)

/-! ### The whole-buffer function (R120, R125) -/

theorem deobfuscate_bytesLe_append (seed : Word) (body : List Byte) :
    deobfuscate (bytesLe seed ++ body) = .ok (deobBytes body (constructPrng seed)).1 := by
  rw [deobfuscate_ok (raw := bytesLe seed ++ body) (Nat.le_add_left 4 body.length), le32_bytesLe_append]
  rfl

/-! ### Commands in a row (R123) -/

/-- Issued from `s`, the commands all complete, their RESULTs hold `bytes`, and the last leaves the PRNG `p`. -/
def Streams (commands : List (Instr × Word)) (s : State) (bytes : List Byte) (p : Prng) : Prop :=
  ∃ results t, issueAll commands s = some (results, t) ∧ resultBytes commands results = bytes ∧ t.prng = p

theorem issueAll_cons {i : Instr} {d : Word} {commands : List (Instr × Word)} {results : List Word} {s t u : State}
    (hfirst : exec i (withDataIn d s) = .next t) (hrest : issueAll commands t = some (results, u)) :
    issueAll ((i, d) :: commands) s = some (t.result :: results, u) := by
  have hfirst' : exec i { s with dataIn := d } = .next t := hfirst
  simp only [issueAll, hfirst', hrest]

theorem streams_cons {i : Instr} {d : Word} {commands : List (Instr × Word)} {s t : State} {bytes : List Byte} {p : Prng}
    (hfirst : exec i (withDataIn d s) = .next t) (hrest : Streams commands t bytes p) :
    Streams ((i, d) :: commands) s ((if i = .deobWord then bytesLe t.result else [low8 t.result]) ++ bytes) p := by
  obtain ⟨results, u, hissue, hbytes, hprng⟩ := hrest
  exact ⟨_, u, issueAll_cons hfirst hissue, by rw [resultBytes, hbytes], hprng⟩

@[simp] theorem low8_zext32 (b : Byte) : low8 (zext32 b) = b := by
  apply BitVec.eq_of_toNat_eq
  rw [toNat_low8, toNat_zext32, Nat.mod_eq_of_lt b.isLt]

/-- DEOB_WORD (R121) on a seeded PRNG. -/
theorem exec_deobWord_withDataIn (d : Word) {s : State} (h : s.prng.seeded = true) :
    exec .deobWord (withDataIn d s)
      = .next (complete (d ^^^ (drawWord s.prng).1) (setPrng (drawWord s.prng).2 (withDataIn d s))) :=
  congrArg Host.Outcome.next (drawAnd_of_seeded (s := withDataIn d s) _ h)

/-- DEOB_BYTE (R122) on a seeded PRNG. -/
theorem exec_deobByte_withDataIn (b : Byte) {s : State} (h : s.prng.seeded = true) :
    exec .deobByte (withDataIn (zext32 b) s) = .next (complete (zext32 (b ^^^ low8 (drawWord s.prng).1))
      (setPrng (drawWord s.prng).2 (withDataIn (zext32 b) s))) := by
  refine (congrArg Host.Outcome.next (drawAnd_of_seeded (s := withDataIn (zext32 b) s) _ h)).trans ?_
  rw [operandByte_eq, withDataIn_dataIn, low8_zext32, withDataIn_prng]

/-- The streaming commands do to the host-visible PRNG what the two loops do to one of their own. -/
theorem streams_deobCommands (bytes : List Byte) {s : State} (h : s.prng.seeded = true) :
    Streams (deobCommands bytes) s (deobBytes bytes s.prng).1 (deobBytes bytes s.prng).2 := by
  induction bytes using groupInduction generalizing s with
  | nil => exact ⟨[], s, rfl, rfl, rfl⟩
  | trailing b rest hshort ih =>
    rw [deobCommands_trailing b hshort, deobBytes_trailing b hshort]
    simpa using streams_cons (exec_deobByte_withDataIn b h) (ih h)
  | group b0 b1 b2 b3 rest ih => exact streams_cons (exec_deobWord_withDataIn (le32Of b0 b1 b2 b3) h) (ih h)

end Sys2Proof.Machine

namespace Sys2Proof

open Sys2Proof.Machine Sys2Proof.Safety

/-- Settles O28: the seed constructs the same PRNG both times, and XORing with the same words twice cancels. -/
theorem deobfuscateSelfInverse : Obligations.DeobfuscateSelfInverse :=
  fun seed plain => ⟨_, deobfuscate_bytesLe_append seed plain, deobfuscate_sealContainer seed plain⟩

/-- Settles O29: PRNG_SEED constructs `Deobfuscate`'s PRNG, and the commands after it run `Deobfuscate`'s loops. -/
theorem streamingDeobfuscationMatches : Obligations.StreamingDeobfuscationMatches := by
  intro s raw hraw
  have hcount := length_deobCommands (raw.drop 4)
  rw [List.length_drop] at hcount
  obtain ⟨results, t, hissue, hbytes, hprng⟩ := streams_deobCommands (raw.drop 4)
    (s := complete 0 (setPrng (constructPrng (le32 raw 0)) (withDataIn (le32 raw 0) s))) rfl
  refine ⟨results, t, issueAll_cons rfl hissue, ?_, hcount, ?_⟩
  · rw [deobfuscate_ok hraw, hbytes]
    rfl
  · rw [hprng, deobBytes_prng, hcount]
    rfl

/-- Settles O26: each byte is XORed with its key byte, in a group or after all of them. -/
theorem deobfuscatedByteFormula : Obligations.DeobfuscatedByteFormula := by
  intro raw hraw
  refine ⟨_, deobfuscate_ok hraw, fun k hk => ?_⟩
  have hbyte := deobBytes_getD (raw.drop 4) (constructPrng (le32 raw 0)) (by rwa [List.length_drop])
  have hinput : (raw.drop 4).getD k 0 = raw.getD (k + 4) 0 := by
    simp only [List.getD_eq_getElem?_getD, List.getElem?_drop, Nat.add_comm]
  rw [List.length_drop, hinput] at hbyte
  exact ⟨fun h => by rw [hbyte, keyByte_of_group _ h], fun h => by rw [hbyte, keyByte_of_trailing _ h]⟩

/-- Settles O27: the loops keep the length, and InputTooSmall is not among DECODE's status codes. -/
theorem deobfuscateLength : Obligations.DeobfuscateLength := by
  refine ⟨fun raw h => ⟨_, deobfuscate_ok h, ?_⟩, fun raw h => ?_, fun _ => rfl, fun _ => deobfuscate_short, ?_⟩
  · rw [deobBytes_length, List.length_drop]
  · rw [deobfuscate_ok (Nat.le_of_eq h.symm), List.drop_of_length_le (Nat.le_of_eq h)]
    rfl
  · intro s t h hcode
    exact absurd ((endsWith_exec .decode 0x02).mp ⟨s, t, h, hcode⟩) (by decide)

end Sys2Proof
end

section
/-! PROOFS. The checksum of spec/42_checksum.md: the chunk a byte or a word completes, the one-shot loop, and the commands that
run it byte by byte. -/

namespace Sys2Proof.Machine

open Sys2Proof Sys2Proof.Safety

/-! ### Replacing the checksum unit -/

/-- A command that replaces the checksum unit reports RESULT 0 and changes nothing else (R136, R137, R138). -/
theorem complete_setChecksum_frame (c : Checksum) (s : State) :
    Reports (complete 0 (setChecksum c s)) 0x00 0 0 ∧ (complete 0 (setChecksum c s)).prng = s.prng
      ∧ (complete 0 (setChecksum c s)).lz = s.lz ∧ (complete 0 (setChecksum c s)).out = s.out
      ∧ SameHost s (complete 0 (setChecksum c s)) := by
  simp [Reports, SameHost]

/-! ### One byte (R137) -/

theorem toNat_pendN_lt_of_ne {c : Checksum} (h : c.pendN ≠ 3) : c.pendN.toNat < 3 := by
  have hne : c.pendN.toNat ≠ 3 := fun heq => h (BitVec.eq_of_toNat_eq heq)
  have hlt := c.pendN.isLt
  omega

/-- The count of pending bytes does not wrap. -/
theorem toNat_pendByte_pendN (b : Byte) {c : Checksum} (h : c.pendN ≠ 3) :
    (pendByte b c).pendN.toNat = c.pendN.toNat + 1 := by
  have hlt := toNat_pendN_lt_of_ne h
  exact Nat.mod_eq_of_lt (Nat.succ_lt_succ hlt)

/-- The bytes waiting for their chunk, in the order they arrived (spec/10_state.md R27). -/
def pending (c : Checksum) : List Byte := c.pend.toList.take c.pendN.toNat

theorem length_pending (c : Checksum) : (pending c).length = c.pendN.toNat := by
  have hlt := c.pendN.isLt
  rw [pending, List.length_take, Vector.length_toList]
  omega

theorem vector3_eq (v : Vector Byte 3) : v = #v[v[0], v[1], v[2]] := by
  ext k hk
  match k, hk with
  | 0, _ | 1, _ | 2, _ => rfl

theorem pending_of_full {c : Checksum} (h : c.pendN = 3) : pending c = [c.pend[0], c.pend[1], c.pend[2]] := by
  rw [pending, h, vector3_eq c.pend]
  rfl

theorem pending_pendByte (b : Byte) {c : Checksum} (h : c.pendN ≠ 3) : pending (pendByte b c) = pending c ++ [b] := by
  have hlt := toNat_pendN_lt_of_ne h
  rw [pending, toNat_pendByte_pendN b h, pendByte_pend, List.take_add_one]
  simp [pending, hlt, List.take_set_of_le]

theorem pending_getD (c : Checksum) {k : Fin 3} (h : k.val < c.pendN.toNat) : (pending c).getD k 0 = c.pend[k] := by
  simp [pending, h]

/-! ### One word (R138) -/

/-- Byte `k` of a sequence's first little-endian word is the sequence's byte `k` (R9, R51). -/
theorem wordByte_le32 (bytes : List Byte) {k : Nat} (hk : k < 4) : wordByte (le32 bytes 0) k = bytes.getD k 0 := by
  have hbytes : bytesLe (le32 bytes 0) = [bytes.getD 0 0, bytes.getD 1 0, bytes.getD 2 0, bytes.getD 3 0] := bytesLe_le32Of ..
  obtain ⟨h0, h1, h2, h3⟩ : _ ∧ _ ∧ _ ∧ _ := by simpa only [bytesLe, List.cons.injEq, and_true] using hbytes
  match k, hk with
  | 0, _ => exact h0
  | 1, _ => exact h1
  | 2, _ => exact h2
  | 3, _ => exact h3

theorem bytesLe_getD (w : Word) {k : Nat} (hk : k < 4) : (bytesLe w).getD k 0 = wordByte w k := by
  match k, hk with
  | 0, _ | 1, _ | 2, _ | 3, _ => rfl

/-- The chunk a CK_WORD completes: the first four of the pending bytes and the word's own. -/
def straddlingChunk (w : Word) (c : Checksum) : Word := le32 (pending c ++ bytesLe w) 0

/-- The `pend` bytes a CK_WORD leaves with `n` bytes pending: each of the word's bytes but the one that completed the chunk. -/
def pendAfterWord (w : Word) (n : Nat) : Vector Byte 3 := Vector.ofFn fun k => wordByte w ((k.val + 4 - n) % 4)

theorem bitVec2_cases : ∀ n : BitVec 2, n = 0 ∨ n = 1 ∨ n = 2 ∨ n = 3 := by decide

/-- A CK_WORD, evaluated for each count of pending bytes. -/
theorem ckAppendWord_eq (w : Word) (c : Checksum) :
    ckAppendWord w c = { fold (straddlingChunk w c) c with pend := pendAfterWord w c.pendN.toNat } := by
  obtain ⟨sum, odd, pend, n⟩ := c
  dsimp only
  rw [vector3_eq pend]
  obtain rfl | rfl | rfl | rfl := bitVec2_cases n
  · rfl
  · rfl
  · rfl
  · rfl

theorem ckAppendWord_odd (w : Word) (c : Checksum) : (ckAppendWord w c).odd = !c.odd := by
  rw [ckAppendWord_eq]
  rfl

theorem ckAppendWord_pendN (w : Word) (c : Checksum) : (ckAppendWord w c).pendN = c.pendN := by
  rw [ckAppendWord_eq]
  rfl

theorem ckAppendWord_sum (w : Word) (c : Checksum) : (ckAppendWord w c).sum = (fold (straddlingChunk w c) c).sum := by
  rw [ckAppendWord_eq]

theorem ckAppendWord_pend_getElem (w : Word) (c : Checksum) (k : Fin 3) :
    (ckAppendWord w c).pend[k] = wordByte w ((k.val + 4 - c.pendN.toNat) % 4) := by
  rw [ckAppendWord_eq]
  simp [pendAfterWord]

/-- The chunk starts with the pending bytes. -/
theorem wordByte_straddlingChunk_of_lt (w : Word) {c : Checksum} {k : Fin 3} (h : k.val < c.pendN.toNat) :
    wordByte (straddlingChunk w c) k = c.pend[k] := by
  rw [straddlingChunk, wordByte_le32 _ (by omega), List.getD_append _ _ _ _ (by rwa [length_pending]), pending_getD c h]

/-- The word's low bytes fill the chunk up. -/
theorem wordByte_straddlingChunk_of_le (w : Word) {c : Checksum} {k : Nat} (hpend : c.pendN.toNat ≤ k) (hk : k < 4) :
    wordByte (straddlingChunk w c) k = wordByte w (k - c.pendN.toNat) := by
  rw [straddlingChunk, wordByte_le32 _ hk, List.getD_append_right _ _ _ _ (by rwa [length_pending]), length_pending,
    bytesLe_getD w (by omega)]

theorem straddlingChunk_of_none (w : Word) {c : Checksum} (h : c.pendN.toNat = 0) : straddlingChunk w c = w := by
  have hnil : pending c = [] := List.eq_nil_of_length_eq_zero ((length_pending c).trans h)
  rw [straddlingChunk, hnil]
  exact le32_bytesLe w

/-! ### The one-shot loop (R135) -/

theorem foldChunks_of_short {bytes : List Byte} (h : bytes.length < 4) (c : Checksum) : foldChunks bytes c = c := by
  match bytes, h with
  | [], _ | [_], _ | [_, _], _ | [_, _, _], _ => rfl

theorem foldChunks_bytesLe_append (w : Word) (rest : List Byte) (c : Checksum) :
    foldChunks (bytesLe w ++ rest) c = foldChunks rest (fold w c) := by
  have hchunk : le32Of (wordByte w 0) (wordByte w 1) (wordByte w 2) (wordByte w 3) = w := le32_bytesLe w
  simp only [bytesLe, List.cons_append, List.nil_append, foldChunks, hchunk]

theorem foldChunks_bytesLe (w : Word) (c : Checksum) : foldChunks (bytesLe w) c = fold w c := by
  have h := foldChunks_bytesLe_append w [] c
  rwa [List.append_nil] at h

/-- XORing into 0 is adding to it, so the first two words are added (R141). -/
theorem checksum_two_words (w0 w1 : Word) : checksum (bytesLe w0 ++ bytesLe w1) = w0 + w1 := by
  rw [checksum, foldChunks_bytesLe_append, foldChunks_bytesLe]
  simp [Checksum.reset]

theorem checksum_three_words (w0 w1 w2 : Word) :
    checksum (bytesLe w0 ++ bytesLe w1 ++ bytesLe w2) = (w0 + w1) ^^^ w2 := by
  rw [checksum, List.append_assoc, foldChunks_bytesLe_append, foldChunks_bytesLe_append, foldChunks_bytesLe]
  simp [Checksum.reset]

/-- The unit after the first `n` of a sequence of chunks. -/
def foldFirst (chunks : Nat → Word) (n : Nat) (c : Checksum) : Checksum :=
  (List.range n).foldl (fun c k => fold (chunks k) c) c

theorem foldFirst_succ (chunks : Nat → Word) (n : Nat) (c : Checksum) :
    foldFirst chunks (n + 1) c = fold (chunks n) (foldFirst chunks n c) := by
  rw [foldFirst, List.range_succ, List.foldl_append]
  rfl

theorem foldFirst_succ' (chunks : Nat → Word) (n : Nat) (c : Checksum) :
    foldFirst chunks (n + 1) c = foldFirst (fun k => chunks (k + 1)) n (fold (chunks 0) c) := by
  rw [foldFirst, List.range_succ_eq_map, List.foldl_cons, List.foldl_map]
  rfl

/-- The loop's chunk `k` is the word at byte `4 k`. -/
theorem foldChunks_eq_foldFirst (bytes : List Byte) (c : Checksum) :
    foldChunks bytes c = foldFirst (fun k => le32 bytes (4 * k)) (bytes.length / 4) c := by
  induction bytes using groupInduction generalizing c with
  | nil => rfl
  | trailing b rest hshort ih =>
    have hlen : (b :: rest).length < 4 := Nat.succ_lt_succ hshort
    rw [foldChunks_of_short hlen, Nat.div_eq_of_lt hlen]
    rfl
  | group b0 b1 b2 b3 rest ih =>
    have hcount : (b0 :: b1 :: b2 :: b3 :: rest).length / 4 = rest.length / 4 + 1 :=
      Nat.add_div_right rest.length (by decide : 0 < 4)
    rw [hcount, foldFirst_succ']
    exact ih _

/-- From `odd` clear, the phase is the parity of the position. -/
theorem foldFirst_odd (chunks : Nat → Word) (n : Nat) :
    (foldFirst chunks n Checksum.reset).odd = decide (n % 2 ≠ 0) := by
  induction n with
  | zero => rfl
  | succ n ih =>
    rw [foldFirst_succ, fold_odd, ih, ← decide_not, decide_eq_decide]
    omega

theorem foldFirst_sum (chunks : Nat → Word) (n : Nat) : (foldFirst chunks n Checksum.reset).sum =
    (List.range n).foldl (fun sum k => if k % 2 = 0 then sum ^^^ chunks k else sum + chunks k) 0 := by
  induction n with
  | zero => rfl
  | succ n ih =>
    rw [foldFirst_succ, fold_sum, foldFirst_odd, ih, List.range_succ, List.foldl_append]
    simp only [List.foldl_cons, List.foldl_nil, decide_eq_true_eq, ne_eq, ite_not]

/-! ### The bytes of a stream (R137, R138, R140) -/

/-- The loop's sum depends on nothing of the unit but the sum and the phase it starts from. -/
theorem foldChunks_sum_congr (bytes : List Byte) {c d : Checksum} (hsum : c.sum = d.sum) (hodd : c.odd = d.odd) :
    (foldChunks bytes c).sum = (foldChunks bytes d).sum := by
  induction bytes using groupInduction generalizing c d with
  | nil => exact hsum
  | trailing b rest hshort ih =>
    have hlen : (b :: rest).length < 4 := Nat.succ_lt_succ hshort
    rw [foldChunks_of_short hlen, foldChunks_of_short hlen, hsum]
  | group b0 b1 b2 b3 rest ih => exact ih (by rw [fold_sum, fold_sum, hsum, hodd]) (by rw [fold_odd, fold_odd, hodd])

/-- The unit after R137's body for each byte in turn. -/
def ckFeed (bytes : List Byte) (c : Checksum) : Checksum := bytes.foldl (fun c b => ckAppend b c) c

theorem ckFeed_append (first second : List Byte) (c : Checksum) :
    ckFeed (first ++ second) c = ckFeed second (ckFeed first c) := List.foldl_append

/-- The one-shot sum of the pending bytes and those to come stays the same as a byte is fed. -/
theorem foldChunks_ckAppend_sum (b : Byte) (rest : List Byte) (c : Checksum) :
    (foldChunks (pending (ckAppend b c) ++ rest) (ckAppend b c)).sum = (foldChunks (pending c ++ b :: rest) c).sum := by
  obtain ⟨hfull, happend⟩ | ⟨hroom, happend⟩ := ckAppend_cases b c
  · have hnil : pending (completeChunk b c) = [] := rfl
    rw [happend, pending_of_full hfull, hnil]
    exact foldChunks_sum_congr rest rfl rfl
  · rw [happend, pending_pendByte b hroom, List.append_assoc]
    exact foldChunks_sum_congr _ rfl rfl

/-- Feeding a stream gives the one-shot sum of the pending bytes and the stream. -/
theorem ckFeed_sum (bytes : List Byte) (c : Checksum) : (ckFeed bytes c).sum = (foldChunks (pending c ++ bytes) c).sum := by
  induction bytes generalizing c with
  | nil =>
    have hlen : (pending c ++ []).length < 4 := by
      rw [List.append_nil, length_pending]
      exact c.pendN.isLt
    rw [foldChunks_of_short hlen]
    rfl
  | cons b rest ih => exact (ih (ckAppend b c)).trans (foldChunks_ckAppend_sum b rest c)

theorem ckFeed_ckClear_sum (bytes : List Byte) (c : Checksum) : (ckFeed bytes (ckClear c)).sum = checksum bytes :=
  (ckFeed_sum bytes (ckClear c)).trans (foldChunks_sum_congr bytes rfl rfl)

/-- CK_BYTE and CK_WORD feed the bytes they append: CK_WORD is R137's body on its four bytes, the low one first (R138). -/
theorem exec_withDataIn_of_feeds {i : Instr} (hi : i = .ckByte ∨ i = .ckWord) (d : Word) (s : State) :
    exec i (withDataIn d s)
      = .next (complete 0 (setChecksum (ckFeed (fedBytes (i, d)) s.ck) (withDataIn d s))) := by
  obtain rfl | rfl := hi
  · rfl
  · rfl

/-- Commands that feed a stream all complete, and CK_READ after them returns the unit's sum. -/
theorem issueAll_feed_ckRead {commands : List (Instr × Word)} (hfeed : ∀ c ∈ commands, c.1 = .ckByte ∨ c.1 = .ckWord)
    (s : State) : ∃ results t, issueAll (commands ++ [(.ckRead, 0)]) s = some (results, t)
      ∧ t.result = (ckFeed (commands.flatMap fedBytes) s.ck).sum := by
  induction commands generalizing s with
  | nil => exact ⟨_, _, issueAll_cons rfl rfl, rfl⟩
  | cons command rest ih =>
    obtain ⟨hfirst, hrest⟩ := List.forall_mem_cons.mp hfeed
    obtain ⟨results, t, hissue, hsum⟩ :=
      ih hrest (complete 0 (setChecksum (ckFeed (fedBytes command) s.ck) (withDataIn command.2 s)))
    refine ⟨_, t, issueAll_cons (exec_withDataIn_of_feeds hfirst command.2 s) hissue, ?_⟩
    rw [hsum, List.flatMap_cons, ckFeed_append]
    rfl

end Sys2Proof.Machine

namespace Sys2Proof

open Sys2Proof.Machine Sys2Proof.Safety

/-- Settles O35: the one-shot sum of the pending bytes and those to come is kept by every byte fed. -/
theorem incrementalChecksum : Obligations.IncrementalChecksum := by
  intro s commands hfeed
  obtain ⟨results, t, hissue, hsum⟩ :=
    issueAll_feed_ckRead hfeed (complete 0 (setChecksum (ckClear s.ck) (withDataIn 0 s)))
  exact ⟨_, t, issueAll_cons rfl hissue, hsum.trans (ckFeed_ckClear_sum _ s.ck)⟩

/-- Settles O32: the chunk is the pending bytes filled up by the word's low bytes, and the word's other bytes stay in `pend`. -/
theorem ckWordFoldsOneChunk : Obligations.CkWordFoldsOneChunk := by
  intro s
  have hn := s.ck.pendN.isLt
  refine ⟨_, straddlingChunk s.dataIn s.ck, rfl, ckAppendWord_odd _ _, ckAppendWord_pendN _ _, ckAppendWord_sum _ _,
    straddlingChunk_of_none _, fun k hk => ⟨wordByte_straddlingChunk_of_lt _ hk, ?_⟩, fun k hk => ?_,
    fun k => wordByte_straddlingChunk_of_le _, complete_setChecksum_frame _ s⟩
  · exact (ckAppendWord_pend_getElem s.dataIn s.ck k).trans (congrArg _ (by omega))
  · exact (ckAppendWord_pend_getElem s.dataIn s.ck k).trans (congrArg _ (by omega))

/-- Settles O34: the loop's phase is the parity of the chunk's position. -/
theorem checksumAlternates : Obligations.ChecksumAlternates := by
  intro data
  rw [checksum, foldChunks_eq_foldFirst, foldFirst_sum]

/-- Settles O36: the loop run on no chunk, on two and on three. -/
theorem checksumProperties : Obligations.ChecksumProperties := by
  refine ⟨fun data h => ?_, checksum_two_words, checksum_three_words, ?_, ?_⟩
  · rw [checksum, foldChunks_of_short h]
    rfl
  · exact (checksum_three_words 1 2 3).trans (by decide)
  · exact (checksum_three_words 3 2 1).trans (by decide)

/-- Settles O30: R136's body. -/
theorem ckClearStartsOver : Obligations.CkClearStartsOver :=
  fun s => ⟨_, rfl, rfl, rfl, rfl, rfl, complete_setChecksum_frame _ s⟩

/-- Settles O31: R137's two branches. -/
theorem ckByteAppends : Obligations.CkByteAppends := by
  intro s
  have hexec : exec .ckByte s = .next (complete 0 (setChecksum (ckAppend (low8 s.dataIn) s.ck) s)) := rfl
  obtain ⟨hfull, happend⟩ | ⟨hroom, happend⟩ := ckAppend_cases (low8 s.dataIn) s.ck
  · have hcount : s.ck.pendN.toNat = 3 := congrArg BitVec.toNat hfull
    rw [happend] at hexec
    exact ⟨_, hexec, fun h => absurd hcount (Nat.ne_of_lt h), fun _ => ⟨rfl, rfl, rfl, rfl⟩,
      complete_setChecksum_frame _ s⟩
  · have hcount : s.ck.pendN.toNat < 3 := toNat_pendN_lt_of_ne hroom
    rw [happend] at hexec
    refine ⟨_, hexec, fun _ => ⟨toNat_pendByte_pendN _ hroom, rfl, rfl, fun k => ?_⟩,
      fun h => absurd h (Nat.ne_of_lt hcount), complete_setChecksum_frame _ s⟩
    simp [Vector.getElem_setIfInBounds, eq_comm, low8]

/-- Settles O33: R139's body. -/
theorem ckReadReturnsSum : Obligations.CkReadReturnsSum := fun _ => ⟨rfl, rfl⟩

end Sys2Proof
end

section
/-! PROOFS. The decompressor of spec/43_lzss.md: one decoding step (R152 to R155), the pull around it (R157, R158), and the
whole-payload function (R159 to R161). -/

namespace Sys2Proof.Machine

open Sys2Proof Sys2Proof.Safety

/-! ### One decoding step (R152) -/

theorem lzStep_of_pending {u : Lzss} (h : u.rem ≠ 0) : lzStep u = some (copyByte u) :=
  if_neg h

theorem lzStep_of_decodeToken {u : Lzss} {t : Token} (hrem : u.rem = 0) (ht : decodeToken u.src u.bitpos = .ok t) :
    lzStep u = runToken t u := by
  rw [lzStep, if_pos hrem, ht]

/-- A decoded token fits, so it runs. -/
theorem runToken_isSome {u : Lzss} {t : Token} (ht : decodeToken u.src u.bitpos = .ok t) : (runToken t u).isSome := by
  rw [Option.isSome_iff_ne_none, ne_eq, runToken_eq_none]
  exact Nat.not_lt.mpr (decodeToken_inside ht)

/-- A decoding step fails exactly where no copy is pending and no token is found (R151, R152). -/
theorem lzStep_eq_none {u : Lzss} :
    lzStep u = none ↔ u.rem = 0 ∧ ∀ t, decodeToken u.src u.bitpos ≠ .ok t := by
  obtain ⟨hrem, h⟩ | ⟨hrem, t, ht, h⟩ | ⟨hrem, ⟨e, he⟩, h⟩ := lzStep_cases u
  · exact iff_of_false (by simp [h]) fun hnone => hrem hnone.1
  · have hruns := runToken_isSome ht
    simp [h, ht, Option.isSome_iff_ne_none.mp hruns]
  · simp [h, he, hrem]

/-- Decoding finds no token exactly where the one it needs is cut short (R77, R153, R154). -/
theorem tokenCutShort_iff {u : Lzss} : TokenCutShort u ↔ ∀ t, decodeToken u.src u.bitpos ≠ .ok t := by
  obtain ⟨hlit, hcopy, hfits⟩ := tokenSpaceComplete u.src u.bitpos
  constructor
  · intro hcut t ht
    obtain ⟨⟨hfirst, hwidth⟩ | ⟨hfirst, hwidth⟩, hinside⟩ := hfits t ht <;>
      · simp only [TokenCutShort, hfirst, Option.some.injEq, reduceCtorEq, false_and, true_and, false_or, or_false] at hcut
        omega
  · intro hnone
    by_contra hroom
    obtain ⟨hpos, hroomLit, hroomCopy⟩ := by simpa only [TokenCutShort, not_or, not_and, not_lt, not_le] using hroom
    obtain ⟨bit, hbit⟩ := Option.isSome_iff_exists.mp (streamBit_isSome.mpr hpos)
    cases bit with
    | true =>
      obtain ⟨t, ht, -⟩ := hlit hbit (hroomLit hbit)
      exact hnone t ht
    | false =>
      obtain ⟨t, ht, -⟩ := hcopy hbit (hroomCopy hbit)
      exact hnone t ht

/-! ### What a store and a copied byte leave (R153, R155) -/

/-- A cursor advances modulo 4096. -/
theorem toNat_cursor_succ (a : BitVec 12) : (a + 1).toNat = (a.toNat + 1) % 4096 := BitVec.toNat_add ..

/-- The byte read at `rc` is stored at `wp`, and no other window byte changes. -/
theorem windowByte_copyByte {u : Lzss} (h : Mem.wf u.window = true) (a : BitVec 12) :
    windowByte (copyByte u).2 a = if a = u.wp then windowByte u u.rc else windowByte u a :=
  windowByte_storeByte h a

/-! ### The pull around a decoding step (R157, R158) -/

theorem pullWith_of_limit (stepUnit : Lzss → Option (Byte × Lzss)) {s : State} (h : s.lz.outCount = s.lz.limit) :
    pullWith stepUnit s = endOfStream s :=
  if_pos h

/-- A pull depends on its decoding step at the unit's own state alone. -/
theorem pullWith_congr {f g : Lzss → Option (Byte × Lzss)} {s : State} (h : f s.lz = g s.lz) :
    pullWith f s = pullWith g s := by
  rw [pullWith, pullWith, h]

/-- A token is the pull that runs it (notes/assumptions/8.md). -/
theorem exec_token (t : Token) (s : State) : exec t.instr s = .next (pullWith (runToken t) s) := by
  cases t <;> rfl

theorem exec_lzPull (s : State) : exec .lzPull s = .next (pullWith lzStep s) := rfl

/-- From `s` to `t` a command has emitted `b`; but for the report, only the decompressor may differ. -/
abbrev EmitsByte (s t : State) (b : Byte) : Prop :=
  t.result.toNat = b.toNat ∧ t.statusCode = 0x00 ∧ t.errInfo = 0
    ∧ t.prng = s.prng ∧ t.ck = s.ck ∧ t.out = s.out ∧ SameHost s t

theorem emitsByte_complete (b : Byte) (u : Lzss) (s : State) : EmitsByte s (complete (zext32 b) (setLzss u s)) b :=
  ⟨toNat_zext32 b, rfl, rfl, rfl, rfl, rfl, rfl, rfl, rfl, rfl, rfl⟩

/-! ### A whole copy (R155) -/

/-- Where the cursors coincide, each byte is stored where it was read. -/
theorem windowByte_copyByte_of_eq {u : Lzss} (h : Mem.wf u.window = true) (heq : u.wp = u.rc) (a : BitVec 12) :
    windowByte (copyByte u).2 a = windowByte u a := by
  rw [windowByte_copyByte h]
  split
  · next ha => rw [ha, heq]
  · rfl

theorem windowByte_copyBytes_of_eq {u : Lzss} (h : Mem.wf u.window = true) (heq : u.wp = u.rc) (n : Nat) (a : BitVec 12) :
    windowByte (copyBytes n u).2 a = windowByte u a := by
  induction n generalizing u with
  | zero => rfl
  | succ n ih =>
    have heq' : (copyByte u).2.wp = (copyByte u).2.rc := congrArg (· + 1) heq
    exact (ih (copyByte_window_wf h) heq').trans (windowByte_copyByte_of_eq h heq a)

/-- The address after `a + k`. -/
theorem add_one_add_ofNat (a : BitVec 12) (k : Nat) : a + 1 + BitVec.ofNat 12 k = a + BitVec.ofNat 12 (k + 1) := by
  rw [BitVec.ofNat_add, BitVec.add_assoc, BitVec.add_comm (BitVec.ofNat 12 k)]
  rfl

theorem copyBytes_getD_of_eq {u : Lzss} (h : Mem.wf u.window = true) (heq : u.wp = u.rc) {n k : Nat} (hk : k < n) :
    (copyBytes n u).1.getD k 0 = windowByte u (u.wp + BitVec.ofNat 12 k) := by
  induction n generalizing u k with
  | zero => cases hk
  | succ n ih =>
    cases k with
    | zero =>
      rw [heq]
      exact congrArg (windowByte u) (BitVec.add_zero u.rc).symm
    | succ k =>
      have heq' : (copyByte u).2.wp = (copyByte u).2.rc := congrArg (· + 1) heq
      calc (copyBytes n (copyByte u).2).1.getD k 0
        _ = windowByte (copyByte u).2 (u.wp + 1 + BitVec.ofNat 12 k) :=
          ih (copyByte_window_wf h) heq' (Nat.lt_of_succ_lt_succ hk)
        _ = windowByte u (u.wp + 1 + BitVec.ofNat 12 k) := windowByte_copyByte_of_eq h heq _
        _ = windowByte u (u.wp + BitVec.ofNat 12 (k + 1)) := by rw [add_one_add_ofNat]

/-- With `d = wp − rc` not 0, the byte at place `k mod d + 1` from `rc` on, read after the first byte is copied, is the one at
place `(k + 1) mod d` before: place `d` is `wp`, where the byte at `rc` has just been stored. -/
theorem windowByte_copyByte_cyclic {u : Lzss} (h : Mem.wf u.window = true) (hne : u.wp ≠ u.rc) (k : Nat) :
    windowByte (copyByte u).2 (u.rc + BitVec.ofNat 12 (k % (u.wp - u.rc).toNat + 1))
      = windowByte u (u.rc + BitVec.ofNat 12 ((k + 1) % (u.wp - u.rc).toNat)) := by
  generalize hd : (u.wp - u.rc).toNat = d
  have hpos : 0 < d := by bv_omega
  have hmod : k % d < d := Nat.mod_lt k hpos
  rw [windowByte_copyByte h, ← Nat.mod_add_mod]
  generalize k % d = j at hmod ⊢
  by_cases hround : j + 1 = d
  · have hwp : u.rc + BitVec.ofNat 12 d = u.wp := by bv_omega
    rw [hround, if_pos hwp, Nat.mod_self]
    exact congrArg (windowByte u) (BitVec.add_zero u.rc).symm
  · have hother : u.rc + BitVec.ofNat 12 (j + 1) ≠ u.wp := by bv_omega
    rw [if_neg hother, Nat.mod_eq_of_lt (by omega)]

/-- A copy emits the `wp − rc` bytes from `rc` on cyclically: each byte copied leaves the distance as it was. -/
theorem copyBytes_getD_of_ne {u : Lzss} (h : Mem.wf u.window = true) (hne : u.wp ≠ u.rc) {n k : Nat} (hk : k < n) :
    (copyBytes n u).1.getD k 0 = windowByte u (u.rc + BitVec.ofNat 12 (k % (u.wp - u.rc).toNat)) := by
  induction n generalizing u k with
  | zero => cases hk
  | succ n ih =>
    cases k with
    | zero =>
      rw [Nat.zero_mod]
      exact congrArg (windowByte u) (BitVec.add_zero u.rc).symm
    | succ k =>
      have hne' : (copyByte u).2.wp ≠ (copyByte u).2.rc := fun heq => hne (by simpa using heq)
      have hdist : (copyByte u).2.wp - (copyByte u).2.rc = u.wp - u.rc := by
        rw [copyByte_wp, copyByte_rc]
        bv_omega
      calc (copyBytes n (copyByte u).2).1.getD k 0
        _ = windowByte (copyByte u).2 (u.rc + 1 + BitVec.ofNat 12 (k % (u.wp - u.rc).toNat)) := by
          rw [ih (copyByte_window_wf h) hne' (Nat.lt_of_succ_lt_succ hk), hdist, copyByte_rc]
        _ = windowByte (copyByte u).2 (u.rc + BitVec.ofNat 12 (k % (u.wp - u.rc).toNat + 1)) := by rw [add_one_add_ofNat]
        _ = windowByte u (u.rc + BitVec.ofNat 12 ((k + 1) % (u.wp - u.rc).toNat)) := windowByte_copyByte_cyclic h hne k

/-! ### The bytes a token sequence emits (R160) -/

theorem sendCopy_append (n a : Nat) (sent : List Byte) :
    ∃ copied, sendCopy n a sent = sent ++ copied ∧ copied.length = n := by
  induction n generalizing a sent with
  | zero => exact ⟨[], (List.append_nil _).symm, rfl⟩
  | succ n ih =>
    obtain ⟨copied, hcopied, hlen⟩ := ih (a + 1) (sent ++ [windowAfter sent a])
    exact ⟨windowAfter sent a :: copied, by rw [sendCopy, hcopied, ← List.append_cons], by rw [List.length_cons, hlen]⟩

theorem sendToken_append (sent : List Byte) (t : Token) :
    ∃ emitted, sendToken sent t = sent ++ emitted ∧ emitted.length = tokenOutput t := by
  cases t with
  | lit b => exact ⟨[b], rfl, rfl⟩
  | copy offset lengthField => exact sendCopy_append _ _ sent

theorem foldl_sendToken_append (ts : List Token) (sent : List Byte) :
    ∃ emitted, ts.foldl sendToken sent = sent ++ emitted ∧ emitted.length = (ts.map tokenOutput).sum := by
  induction ts generalizing sent with
  | nil => exact ⟨[], (List.append_nil _).symm, rfl⟩
  | cons t ts ih =>
    obtain ⟨first, hfirst, hlen⟩ := sendToken_append sent t
    obtain ⟨later, hlater, hlen'⟩ := ih (sent ++ first)
    exact ⟨first ++ later, by rw [List.foldl_cons, hfirst, hlater, List.append_assoc], by simp [hlen, hlen']⟩

theorem length_sendTokens (ts : List Token) : (sendTokens ts).length = (ts.map tokenOutput).sum := by
  obtain ⟨emitted, hemitted, hlen⟩ := foldl_sendToken_append ts []
  rw [sendTokens, hemitted, List.nil_append, hlen]

/-! ### The window as the latest outputs (R28, R150, R153, R155) -/

/-- One more output puts the output found at address `a` one further back, unless it is itself stored at `a`. -/
theorem stepsBack_succ {n a : Nat} (h : a % windowSize ≠ (n + 1) % windowSize) :
    (n + 1 + windowSize - a % windowSize) % windowSize = (n + windowSize - a % windowSize) % windowSize + 1 := by
  unfold windowSize at h ⊢
  omega

theorem stepsBack_eq_zero {n a : Nat} (h : a % windowSize = n % windowSize) :
    (n + windowSize - a % windowSize) % windowSize = 0 := by
  unfold windowSize at h ⊢
  omega

/-- One more output replaces the byte at its own address and no other. -/
theorem windowAfter_append (sent : List Byte) (b : Byte) (a : Nat) : windowAfter (sent ++ [b]) a =
    if a % windowSize = (sent.length + 1) % windowSize then b else windowAfter sent a := by
  unfold windowAfter
  rw [List.length_append, List.length_singleton]
  by_cases haddr : a % windowSize = (sent.length + 1) % windowSize
  · rw [if_pos haddr, stepsBack_eq_zero haddr]
    simp
  · rw [if_neg haddr, stepsBack_succ haddr]
    generalize (sent.length + windowSize - a % windowSize) % windowSize = back
    by_cases hback : back < sent.length
    · rw [if_pos hback, if_pos (Nat.succ_lt_succ hback), List.getD_append _ _ _ _ (by omega)]
      congr 1
      omega
    · rw [if_neg hback, if_neg (by omega)]

@[simp] theorem windowAfter_mod (sent : List Byte) (a : Nat) : windowAfter sent (a % windowSize) = windowAfter sent a := by
  rw [windowAfter, windowAfter, Nat.mod_mod]

/-- A copy's source address wraps at the window's end (R155). -/
theorem sendCopy_mod (n a : Nat) (sent : List Byte) : sendCopy n (a % windowSize) sent = sendCopy n a sent := by
  induction n generalizing a sent with
  | zero => rfl
  | succ n ih =>
    rw [sendCopy, sendCopy, windowAfter_mod, ← ih (a % windowSize + 1), ← ih (a + 1), Nat.mod_add_mod]

/-- The decompressor's window holds what `sent` leaves there. -/
structure Tracks (u : Lzss) (sent : List Byte) : Prop where
  wf : Mem.wf u.window = true
  wp : u.wp.toNat = (sent.length + 1) % windowSize
  bytes : ∀ a : BitVec 12, windowByte u a = windowAfter sent a.toNat

theorem tracks_freshLzss (src : List Byte) (limit : Word) : Tracks (freshLzss src limit) [] :=
  ⟨freshLzss_window_wf src limit, rfl, fun _ => rfl⟩

theorem tracks_storeByte {u : Lzss} {sent : List Byte} (h : Tracks u sent) (b : Byte) :
    Tracks (storeByte b u) (sent ++ [b]) := by
  obtain ⟨hwf, hwp, hbytes⟩ := h
  refine ⟨storeByte_window_wf hwf, ?_, fun a => ?_⟩
  · rw [storeByte_wp, BitVec.toNat_add, hwp, List.length_append]
    exact Nat.mod_add_mod ..
  · have haddr : a.toNat % windowSize = (sent.length + 1) % windowSize ↔ a = u.wp := by
      rw [← hwp, Nat.mod_eq_of_lt a.isLt, BitVec.toNat_inj]
    rw [windowByte_storeByte hwf, windowAfter_append, hbytes]
    simp only [haddr]

/-! ### Decoding steps along a token stream (R151, R152) -/

theorem length_tokenBits (t : Token) : (tokenBits t).length = tokenWidth t := by
  cases t <;> simp [tokenBits, tokenWidth]

/-- Padding adds fewer than 8 bits (R84). -/
theorem length_packBits (bits : List Bool) : 8 * (packBits bits).length < bits.length + 8 := by
  fun_induction packBits bits with
  | case9 a b c d e f g h rest ih => simp only [List.length_cons]; omega
  | _ => simp

theorem nine_le_tokenWidth (t : Token) : 9 ≤ tokenWidth t := by
  cases t <;> simp [tokenWidth]

/-- The decompressor has emitted `sent`, and what it has still to read is the tokens `ts`; fewer bits than a LIT has follow
them, so no token does. -/
structure Reads (u : Lzss) (sent : List Byte) (ts : List Token) : Prop where
  tracks : Tracks u sent
  bits : BitsAt u.src u.bitpos (tokensBits ts)
  ends : 8 * u.src.length < u.bitpos + (tokensBits ts).length + 9

/-- All that is emitted once the pending copy and the tokens `ts` have run in full. -/
def outputInFull (u : Lzss) (sent : List Byte) (ts : List Token) : List Byte :=
  ts.foldl sendToken (sendCopy u.rem.toNat u.rc.toNat sent)

theorem reads_freshLzss (ts : List Token) (limit : Word) : Reads (freshLzss (packBits (tokensBits ts)) limit) [] ts := by
  refine ⟨tracks_freshLzss .., ?_, ?_⟩
  · simpa using bitsAt_packBits [] (tokensBits ts) []
  · have hpadded := length_packBits (tokensBits ts)
    rw [freshLzss_src, freshLzss_bitpos]
    omega

section
variable {u : Lzss} {sent : List Byte} {ts : List Token}

theorem outputInFull_append (u : Lzss) (sent : List Byte) (ts : List Token) :
    ∃ rest, outputInFull u sent ts = sent ++ rest := by
  obtain ⟨copied, hcopied, -⟩ := sendCopy_append u.rem.toNat u.rc.toNat sent
  obtain ⟨emitted, hemitted, -⟩ := foldl_sendToken_append ts (sent ++ copied)
  exact ⟨copied ++ emitted, by rw [outputInFull, hcopied, hemitted, List.append_assoc]⟩

theorem outputInFull_of_idle (hrem : u.rem = 0) : outputInFull u sent ts = ts.foldl sendToken sent := by
  rw [outputInFull, hrem]
  rfl

/-- A pending copy's next byte is the one `sendCopy` sends next. -/
theorem outputInFull_copyByte (h : Tracks u sent) (hrem : u.rem ≠ 0) :
    outputInFull (copyByte u).2 (sent ++ [(copyByte u).1]) ts = outputInFull u sent ts := by
  have hcount : u.rem.toNat = (u.rem - 1).toNat + 1 := by bv_omega
  have haddr : (u.rc + 1).toNat = (u.rc.toNat + 1) % windowSize := BitVec.toNat_add ..
  rw [outputInFull, outputInFull, copyByte_byte, copyByte_rc, copyByte_rem, hcount, haddr, sendCopy_mod, sendCopy,
    h.bytes]

theorem reads_storeByte (h : Reads u sent ts) (b : Byte) : Reads (storeByte b u) (sent ++ [b]) ts :=
  ⟨tracks_storeByte h.tracks b, h.bits, h.ends⟩

theorem reads_copyByte (h : Reads u sent ts) : Reads (copyByte u).2 (sent ++ [(copyByte u).1]) ts := by
  obtain ⟨⟨hwf, hwp, hbytes⟩, hbits, hends⟩ := reads_storeByte h (copyByte u).1
  exact ⟨⟨hwf, hwp, hbytes⟩, hbits, hends⟩

theorem reads_startCopy (h : Reads u sent ts) (offset : BitVec 12) (lengthField : BitVec 4) :
    Reads (startCopy offset lengthField u) sent ts := by
  obtain ⟨⟨hwf, hwp, hbytes⟩, hbits, hends⟩ := h
  exact ⟨⟨hwf, hwp, hbytes⟩, hbits, hends⟩

theorem tokensBits_cons (t : Token) (ts : List Token) : tokensBits (t :: ts) = tokenBits t ++ tokensBits ts := rfl

section
variable {t : Token} (h : Reads u sent (t :: ts))
include h

theorem decodeToken_of_reads : decodeToken u.src u.bitpos = .ok t :=
  decodeToken_eq_ok.mpr (bitsAt_append.mp h.bits).1

theorem reads_consumeBits : Reads (consumeBits (tokenWidth t) u) sent ts := by
  obtain ⟨⟨hwf, hwp, hbytes⟩, hbits, hends⟩ := h
  rw [tokensBits_cons, bitsAt_append, length_tokenBits] at hbits
  rw [tokensBits_cons, List.length_append, length_tokenBits, ← Nat.add_assoc] at hends
  exact ⟨⟨hwf, hwp, hbytes⟩, hbits.2, hends⟩

end

/-- A token at `bitpos` emits its first byte and leaves what it has still to emit. -/
theorem runToken_of_reads {t : Token} (h : Reads u sent (t :: ts)) (hrem : u.rem = 0) :
    ∃ b u', runToken t u = some (b, u') ∧ Reads u' (sent ++ [b]) ts
      ∧ outputInFull u' (sent ++ [b]) ts = outputInFull u sent (t :: ts) := by
  have hfits := decodeToken_inside (decodeToken_of_reads h)
  have hnext := reads_consumeBits h
  rw [outputInFull_of_idle hrem, List.foldl_cons]
  cases t with
  | lit b => exact ⟨b, _, runToken_lit hfits, reads_storeByte hnext b, outputInFull_of_idle hrem⟩
  | copy offset lengthField =>
    have hcopy := reads_startCopy hnext offset lengthField
    refine ⟨_, _, runToken_copy hfits, reads_copyByte hcopy,
      (outputInFull_copyByte hcopy.tracks (copyLength_ne_zero lengthField)).trans ?_⟩
    rw [outputInFull, startCopy_rem, toNat_copyLength]
    rfl

/-- One decoding step emits the next byte of the full output, or finds no token where the full output has been emitted. -/
theorem lzStep_of_reads (h : Reads u sent ts) :
    (lzStep u = none ∧ outputInFull u sent ts = sent) ∨
      ∃ b u' ts', lzStep u = some (b, u') ∧ Reads u' (sent ++ [b]) ts'
        ∧ outputInFull u' (sent ++ [b]) ts' = outputInFull u sent ts := by
  by_cases hrem : u.rem = 0
  · cases ts with
    | nil =>
      refine .inl ⟨lzStep_eq_none.mpr ⟨hrem, fun t ht => ?_⟩, outputInFull_of_idle hrem⟩
      have hinside := decodeToken_inside ht
      have hwidth := nine_le_tokenWidth t
      have hends : 8 * u.src.length < u.bitpos + 9 := h.ends
      omega
    | cons t ts =>
      obtain ⟨b, u', hrun, hnext⟩ := runToken_of_reads h hrem
      exact .inr ⟨b, u', ts, (lzStep_of_decodeToken hrem (decodeToken_of_reads h)).trans hrun, hnext⟩
  · exact .inr ⟨_, _, ts, lzStep_of_pending hrem, reads_copyByte h, outputInFull_copyByte h.tracks hrem⟩

end

/-! ### `Decompress` (R159) -/

section
variable {u : Lzss}

theorem decompressFrom_of_none (h : lzStep u = none) (n produced : Nat) :
    decompressFrom (n + 1) produced u = .error ⟨.prematureEnd, BitVec.ofNat 32 produced⟩ := by
  rw [decompressFrom, h]

theorem decompressFrom_of_some {b : Byte} {u' : Lzss} (h : lzStep u = some (b, u')) (n produced : Nat) :
    decompressFrom (n + 1) produced u = (decompressFrom n (produced + 1) u').map (b :: ·) := by
  simp only [decompressFrom, h]
  cases decompressFrom n (produced + 1) u' <;> rfl

end

theorem decompressFrom_succ_ok {n produced : Nat} {u : Lzss} {out : List Byte}
    (h : decompressFrom (n + 1) produced u = .ok out) :
    ∃ b u' rest, lzStep u = some (b, u') ∧ decompressFrom n (produced + 1) u' = .ok rest ∧ out = b :: rest := by
  cases hstep : lzStep u with
  | none =>
    rw [decompressFrom_of_none hstep] at h
    cases h
  | some p =>
    rw [decompressFrom_of_some (u' := p.2) hstep] at h
    cases hrest : decompressFrom n (produced + 1) p.2 with
    | error e => rw [hrest] at h; cases h
    | ok rest => rw [hrest] at h; cases h; exact ⟨p.1, p.2, rest, rfl, hrest, rfl⟩

/-- Decompression emits what the pending copy and the tokens have still to emit, cut at `n`, or ends early behind it. -/
theorem decompressFrom_of_reads {n produced : Nat} {u : Lzss} {sent rest : List Byte} {ts : List Token}
    (h : Reads u sent ts) (hrest : outputInFull u sent ts = sent ++ rest) :
    decompressFrom n produced u = if n ≤ rest.length then .ok (rest.take n)
      else .error ⟨.prematureEnd, BitVec.ofNat 32 (produced + rest.length)⟩ := by
  induction n generalizing produced u sent rest ts with
  | zero => rw [if_pos (Nat.zero_le _)]; rfl
  | succ n ih =>
    obtain ⟨hstep, hfull⟩ | ⟨b, u', ts', hstep, hnext, hfull⟩ := lzStep_of_reads h
    · obtain rfl : rest = [] := List.append_right_eq_self.mp (hrest.symm.trans hfull)
      rw [decompressFrom_of_none hstep]
      rfl
    · obtain ⟨rest', hrest'⟩ := outputInFull_append u' (sent ++ [b]) ts'
      obtain rfl : b :: rest' = rest := by
        rw [hfull, hrest, List.append_assoc] at hrest'
        exact (List.append_cancel_left hrest').symm
      rw [decompressFrom_of_some hstep, ih hnext hrest', List.length_cons]
      by_cases hn : n ≤ rest'.length
      · rw [if_pos hn, if_pos (Nat.succ_le_succ hn)]
        rfl
      · rw [if_neg hn, if_neg (by omega), Nat.add_assoc, Nat.add_comm 1]
        rfl

/-! ### Input that is not read (R161) -/

theorem streamBit_append {src : List Byte} {k : Nat} (h : k < 8 * src.length) (extra : List Byte) :
    streamBit (src ++ extra) k = streamBit src k := by
  rw [streamBit, streamBit, List.getElem?_append_left (by omega)]

theorem bitsAt_append_src {src : List Byte} {pos : Nat} {bits : List Bool} (h : BitsAt src pos bits) (extra : List Byte) :
    BitsAt (src ++ extra) pos bits := by
  intro k hk
  have hinside : pos + k < 8 * src.length := streamBit_isSome.mp (by rw [h k hk, List.getElem?_eq_getElem hk]; rfl)
  rw [streamBit_append hinside, h k hk]

theorem decodeToken_append_src {src : List Byte} {pos : Nat} {t : Token} (h : decodeToken src pos = .ok t)
    (extra : List Byte) : decodeToken (src ++ extra) pos = .ok t :=
  decodeToken_eq_ok.mpr (bitsAt_append_src (decodeToken_eq_ok.mp h) extra)

/-- The unit with more bytes behind its stream and another limit. -/
def extendInput (extra : List Byte) (limit : Word) (u : Lzss) : Lzss := { u with src := u.src ++ extra, limit := limit }

section
variable (extra : List Byte) (limit : Word)

@[simp] theorem extendInput_src (u : Lzss) : (extendInput extra limit u).src = u.src ++ extra := rfl

variable {u u' : Lzss} {b : Byte}

theorem runToken_extendInput {t : Token} (hfits : u.bitpos + tokenWidth t ≤ 8 * u.src.length)
    (h : runToken t u = some (b, u')) : runToken t (extendInput extra limit u) = some (b, extendInput extra limit u') := by
  have hfits' : u.bitpos + tokenWidth t ≤ 8 * (extendInput extra limit u).src.length := by
    rw [extendInput_src, List.length_append]
    omega
  cases t with
  | lit b =>
    rw [runToken_lit hfits] at h
    cases h
    exact runToken_lit hfits'
  | copy offset lengthField =>
    rw [runToken_copy hfits] at h
    cases h
    exact runToken_copy hfits'

/-- A decoding step that does not run into the end of the stream does the same with more behind it. -/
theorem lzStep_extendInput (h : lzStep u = some (b, u')) :
    lzStep (extendInput extra limit u) = some (b, extendInput extra limit u') := by
  obtain ⟨hrem, hstep⟩ | ⟨hrem, t, ht, hstep⟩ | ⟨-, -, hstep⟩ := lzStep_cases u <;> rw [hstep] at h
  · cases h
    exact lzStep_of_pending hrem
  · exact (lzStep_of_decodeToken (u := extendInput extra limit u) hrem (decodeToken_append_src ht extra)).trans
      (runToken_extendInput extra limit (decodeToken_inside ht) h)
  · cases h

/-- Fewer bytes of a longer stream are a prefix of the bytes decompressed. -/
theorem decompressFrom_extendInput {m n produced : Nat} {out : List Byte} (hm : m ≤ n)
    (h : decompressFrom n produced u = .ok out) :
    decompressFrom m produced (extendInput extra limit u) = .ok (out.take m) := by
  induction m generalizing n produced u out with
  | zero => rfl
  | succ m ih =>
    obtain ⟨n, rfl⟩ := Nat.exists_eq_add_of_le' (Nat.zero_lt_of_lt hm)
    obtain ⟨b, u', rest, hstep, hrest, rfl⟩ := decompressFrom_succ_ok h
    rw [decompressFrom_of_some (lzStep_extendInput extra limit hstep), ih (Nat.le_of_succ_le_succ hm) hrest]
    rfl

end

end Sys2Proof.Machine

namespace Sys2Proof

open Sys2Proof.Machine Sys2Proof.Safety

/-- Settles O45: each decoding step emits the next byte of the full output, and past it finds no token. -/
theorem tokenStreamOutput : Obligations.TokenStreamOutput := by
  intro ts size
  have hrun := decompressFrom_of_reads (n := size.toNat) (produced := 0) (reads_freshLzss ts size)
    (List.nil_append (sendTokens ts)).symm
  refine ⟨length_sendTokens ts, fun hsize => ?_, fun hsize => ?_⟩
  · rw [decompress, hrun, if_pos hsize]
  · rw [decompress, hrun, if_neg (Nat.not_le.mpr hsize), Nat.zero_add]

/-- Settles O38: the token fits, so the pull stores the byte at `wp` and completes with it. -/
theorem litStoresAndEmits : Obligations.LitStoresAndEmits := by
  intro s b hwf hlimit hfits
  have hpull := pullWith_of_some (stepUnit := runToken (.lit b)) hlimit (runToken_lit hfits)
  have hstored := windowByte_storeByte (b := b) (u := consumeBits 9 s.lz) hwf
  exact ⟨_, congrArg Host.Outcome.next hpull, (hstored _).trans (if_pos rfl), fun a ha => (hstored a).trans (if_neg ha),
    toNat_cursor_succ s.lz.wp, rfl, rfl, rfl, rfl, rfl, rfl, emitsByte_complete b _ s⟩

/-- Settles O39: the token fits, so the pull starts the copy and completes with its first byte. -/
theorem copyEmitsFirstByte : Obligations.CopyEmitsFirstByte := by
  intro s offset lengthField hwf hlimit hfits
  have hpull := pullWith_of_some (stepUnit := runToken (.copy offset lengthField)) hlimit (runToken_copy hfits)
  have hcopied := windowByte_copyByte (u := startCopy offset lengthField (consumeBits 17 s.lz)) hwf
  have hrem : (copyLength lengthField - 1).toNat = lengthField.toNat + 1 := by
    have := toNat_copyLength lengthField
    bv_omega
  exact ⟨_, congrArg Host.Outcome.next hpull, (hcopied _).trans (if_pos rfl), fun a ha => (hcopied a).trans (if_neg ha),
    toNat_cursor_succ s.lz.wp, toNat_cursor_succ offset, hrem, rfl, rfl, rfl, rfl, emitsByte_complete _ _ s⟩

/-- Settles O40: with a copy pending the decoding step is its next byte. -/
theorem lzPullResumesCopy : Obligations.LzPullResumesCopy := by
  intro s hwf hlimit hpending
  have hpull := pullWith_of_some (stepUnit := lzStep) hlimit (lzStep_of_pending hpending)
  have hcopied := windowByte_copyByte hwf
  have hrem : (s.lz.rem - 1).toNat + 1 = s.lz.rem.toNat := by bv_omega
  exact ⟨_, congrArg Host.Outcome.next hpull, (hcopied _).trans (if_pos rfl), fun a ha => (hcopied a).trans (if_neg ha),
    toNat_cursor_succ s.lz.wp, toNat_cursor_succ s.lz.rc, hrem, rfl, rfl, rfl, rfl, emitsByte_complete _ _ s⟩

/-- Settles O42: a decoding step fails exactly where no copy is pending and no token is found, and the error keeps the unit. -/
theorem pullPastStreamEnd : Obligations.PullPastStreamEnd := by
  refine fun s hlimit => ⟨fun hrem hcut => ?_, fun t ht hstatus => ?_⟩
  · have hnone : lzStep s.lz = none := lzStep_eq_none.mpr ⟨hrem, tokenCutShort_iff.mp hcut⟩
    have hfails : ∀ t : State, t.lz = s.lz → exec .lzPull t = .next (raiseErr .prematureEnd s.lz.outCount t) := by
      intro t ht
      rw [← ht] at hlimit hnone ⊢
      rw [exec_lzPull, pullWith_of_none hlimit hnone]
    exact ⟨hfails s rfl, hfails { s with statusCode := 0x07, result := 0, errInfo := s.lz.outCount } rfl⟩
  · cases ht
    obtain ⟨hat, -⟩ | ⟨-, hnone, -⟩ | ⟨-, b, u, -, hpull⟩ := pullWith_cases lzStep s
    · exact absurd hat hlimit
    · obtain ⟨hrem, htoken⟩ := lzStep_eq_none.mp hnone
      exact ⟨hrem, tokenCutShort_iff.mpr htoken⟩
    · rw [hpull] at hstatus
      cases hstatus

/-- Settles O43: a copied byte is stored `wp − rc` addresses ahead of where it was read, and is read there again. -/
theorem copyRepeatsLastBytes : Obligations.CopyRepeatsLastBytes :=
  fun _ n hwf => ⟨fun hne _ hk => copyBytes_getD_of_ne hwf hne hk,
    fun heq => ⟨fun _ hk => copyBytes_getD_of_eq hwf heq hk, windowByte_copyBytes_of_eq hwf heq n⟩⟩

/-- Settles O46: a step that succeeds does the same with more input behind it, and no step reads the limit. -/
theorem unreadInputIsIgnored : Obligations.UnreadInputIsIgnored := by
  intro payload out size h
  have hlength : out.length = size.toNat := decompressFrom_length h
  refine ⟨hlength, fun extra => ?_, fun smaller hle => ?_⟩
  · have hlonger := decompressFrom_extendInput extra size le_rfl h
    rwa [← hlength, List.take_length, hlength] at hlonger
  · have hfewer := decompressFrom_extendInput [] smaller hle h
    rw [extendInput, freshLzss_src, List.append_nil] at hfewer
    exact hfewer

/-- Settles O5: the decoding step at `bitpos` is the token found there. -/
theorem lzPullRunsDecodedToken : Obligations.LzPullRunsDecodedToken := by
  intro s tok hrem htok
  rw [exec_lzPull, exec_token, pullWith_congr (lzStep_of_decodeToken hrem htok)]

/-- Settles O37: LZ_INIT is not refused, and replaces the unit by a fresh one. -/
theorem lzInitMakesFresh : Obligations.LzInitMakesFresh := by
  intro s hfits
  have hexec : exec .lzInit s = .next (complete 0 (setLzss (freshLzss s.srcIn s.dataIn) s)) :=
    if_neg (Nat.not_lt.mpr hfits)
  exact ⟨_, hexec, fun _ => rfl, rfl, rfl, rfl, rfl, rfl, rfl, rfl, ⟨rfl, rfl, rfl⟩, rfl, rfl, rfl, rfl, rfl, rfl, rfl, rfl⟩

/-- Settles O41: each of the three is a pull, whatever its decoding step. -/
theorem pullAtLimit : Obligations.PullAtLimit := by
  intro s hlimit i hi
  obtain rfl | ⟨b, rfl⟩ | ⟨offset, lengthField, rfl⟩ := hi <;>
    exact congrArg Host.Outcome.next (pullWith_of_limit _ hlimit)

end Sys2Proof
end

section
/-! PROOFS. DECODE of spec/44_orchestrator.md: the output its container determines, the code its header holds, and the sealed
containers it opens. -/

namespace Sys2Proof.Machine

open Sys2Proof Sys2Proof.Safety

/-! ### The output of step 3 (R184 to R187) -/

/-- What step 3 for LZSS makes of the payload (R186), whatever the capacity. -/
def lzssOutput (h : Header) (payload : List Byte) : Except Err (List Byte) :=
  match decompress payload h.unpackedSize with
  | .error e => .error e
  | .ok bytes => if checksum bytes = h.checksumUncompressed then .ok bytes else .error ⟨.decompressChecksumNonMatch, 0⟩

/-- What step 3 makes of the payload, whatever the capacity. -/
def finishOutput : Compression → Header → List Byte → Except Err (List Byte)
  | .uncompressed, _, payload => .ok payload
  | .rle, _, _ => .error ⟨.compressionNotSupported, 0⟩
  | .lzss, h, payload => lzssOutput h payload
  | .unknown _, _, _ => .error ⟨.invalidCompressionType, 0⟩

/-- The output length step 3 holds against `OUT_CAP` (spec/60_exceptions.md R213). -/
def reachedLength : Compression → Header → List Byte → Nat
  | .uncompressed, _, payload => payload.length
  | .lzss, h, _ => h.unpackedSize.toNat
  | .rle, _, _ | .unknown _, _, _ => 0

/-- The state DECODE ends in with an output or an error (R181). -/
def ended : Except Err (List Byte) → State → State
  | .error e, s => failed s (errCode e.kind) e.info
  | .ok bytes, s => delivered s bytes

section
variable {h : Header} {payload bytes : List Byte}

theorem lzssOutput_of_error {e : Err} (hd : decompress payload h.unpackedSize = .error e) :
    lzssOutput h payload = .error e := by
  rw [lzssOutput, hd]

theorem lzssOutput_of_ok (hd : decompress payload h.unpackedSize = .ok bytes) : lzssOutput h payload =
    if checksum bytes = h.checksumUncompressed then .ok bytes else .error ⟨.decompressChecksumNonMatch, 0⟩ := by
  rw [lzssOutput, hd]

/-- An LZSS output is the decompressed bytes. -/
theorem decompress_of_lzssOutput (ho : lzssOutput h payload = .ok bytes) :
    decompress payload h.unpackedSize = .ok bytes := by
  cases hd : decompress payload h.unpackedSize with
  | error e => rw [lzssOutput_of_error hd] at ho; cases ho
  | ok out =>
    rw [lzssOutput_of_ok hd] at ho
    split at ho
    · exact ho
    · cases ho

end

section
variable (h : Header) (payload : List Byte) (s : State)

theorem finishLzss_eq : finishLzss h payload s =
    if s.cfg.outCap < h.unpackedSize.toNat then .refused .outputTooLong else .next (ended (lzssOutput h payload) s) := by
  unfold finishLzss lzssOutput
  cases decompress payload h.unpackedSize with
  | error e => rfl
  | ok bytes =>
    dsimp only
    split
    · rfl
    · split <;> rfl

/-- Step 3 is refused where it reaches too long an output, and ends with its output or error otherwise. -/
theorem finish_eq (c : Compression) : finish c h payload s =
    if s.cfg.outCap < reachedLength c h payload then .refused .outputTooLong
    else .next (ended (finishOutput c h payload) s) := by
  cases c with
  | uncompressed => rfl
  | rle | unknown => rfl
  | lzss => exact finishLzss_eq h payload s

end

theorem finish_of_fits {c : Compression} {h : Header} {payload : List Byte} {s : State}
    (hfits : reachedLength c h payload ≤ s.cfg.outCap) :
    finish c h payload s = .next (ended (finishOutput c h payload) s) := by
  rw [finish_eq, if_neg (Nat.not_lt.mpr hfits)]

/-! ### The output of DECODE, a function of its container alone (R181, R189) -/

/-- What DECODE makes of a container, whatever the capacities. -/
def decodeOutput (raw : List Byte) : Except Err (List Byte) :=
  match openContainer raw with
  | .error e => .error e
  | .ok (h, payload) => finishOutput (compressionOf h.compressionCode) h payload

theorem eq_ended_of_finish {c : Compression} {h : Header} {payload : List Byte} {s t : State}
    (ht : finish c h payload s = .next t) : t = ended (finishOutput c h payload) s := by
  rw [finish_eq] at ht
  split at ht
  · cases ht
  · cases ht; rfl

section
variable {s t : State} (ht : exec .decode s = .next t)
include ht

theorem srcIn_le_of_exec_decode : s.srcIn.length ≤ s.cfg.maxInLen := by
  by_contra hlong
  have hrefused : exec .decode s = .refused .inputTooLong := decodeWith_tooLong compressionOf (Nat.not_le.mp hlong)
  rw [hrefused] at ht
  cases ht

/-- A DECODE that is not refused ends with the output or the error of its container. -/
theorem eq_ended_of_exec_decode : t = ended (decodeOutput s.srcIn) s := by
  have hmax := srcIn_le_of_exec_decode ht
  have hdecode : decodeWith compressionOf s = .next t := ht
  rw [decodeWith, operandBytes_eq, if_neg (Nat.not_lt.mpr hmax)] at hdecode
  split at hdecode
  · next e hopen =>
    rw [decodeOutput, hopen]
    cases hdecode
    rfl
  · next h payload hopen =>
    rw [decodeOutput, hopen]
    exact eq_ended_of_finish hdecode

end

/-- The header at the front of a deobfuscated buffer (spec/30_encoding.md R72). -/
def headerOf (d : List Byte) : Header := ⟨le32 d 0, le32 d 4, le32 d 8, le32 d 12⟩

@[simp] theorem headerOf_checksumUncompressed (d : List Byte) : (headerOf d).checksumUncompressed = le32 d 8 := rfl
@[simp] theorem headerOf_compressionCode (d : List Byte) : (headerOf d).compressionCode = le32 d 12 := rfl

/-- Steps 1 and 2 answer the header and the payload of the deobfuscated buffer (R182, R183). -/
theorem openContainer_ok {raw payload : List Byte} {h : Header} (ho : openContainer raw = .ok (h, payload)) :
    ∃ d, deobfuscate raw = .ok d ∧ d.length = raw.length - 4 ∧ h = headerOf d ∧ payload = d.drop 16 := by
  by_cases hshort : raw.length ≤ 20
  · rw [openContainer_short hshort] at ho
    cases ho
  · have hd := deobfuscate_ok (raw := raw) (by omega)
    rw [openContainer_long (Nat.not_le.mp hshort) hd] at ho
    split at ho
    · cases ho
      exact ⟨_, hd, by rw [deobBytes_length, List.length_drop], rfl, rfl⟩
    · cases ho

/-- DECODE's output is its container's payload or what the payload decompresses to, by the header's code. -/
theorem decodeOutput_ok {raw bytes : List Byte} (ho : decodeOutput raw = .ok bytes) :
    ∃ d, deobfuscate raw = .ok d ∧ d.length = raw.length - 4
      ∧ (le32 d 12 = 0 ∧ d.drop 16 = bytes ∨ le32 d 12 = 2 ∧ decompress (d.drop 16) (le32 d 0) = .ok bytes) := by
  unfold decodeOutput at ho
  split at ho
  · cases ho
  · next h payload hopen =>
    obtain ⟨d, hd, hlen, rfl, rfl⟩ := openContainer_ok hopen
    rw [headerOf_compressionCode] at ho
    refine ⟨d, hd, hlen, ?_⟩
    obtain ⟨h0, hc⟩ | ⟨-, hc⟩ | ⟨h2, hc⟩ | ⟨-, hc⟩ := compressionOf_cases (le32 d 12) <;> rw [hc] at ho
    · exact .inl ⟨h0, Except.ok.inj ho⟩
    · cases ho
    · exact .inr ⟨h2, decompress_of_lzssOutput ho⟩
    · cases ho

theorem errCode_ne_ok (kind : ErrKind) : errCode kind ≠ 0x00 := by
  cases kind <;> decide

/-- DECODE ends with OK only where it delivers an output. -/
theorem ok_of_ended {o : Except Err (List Byte)} {s : State} (hcode : (ended o s).statusCode = 0x00) :
    ∃ bytes, o = .ok bytes := by
  cases o with
  | error e => exact absurd hcode (errCode_ne_ok e.kind)
  | ok bytes => exact ⟨bytes, rfl⟩

/-! ### DECODE and the compression codes on a deobfuscated buffer (R182 to R187) -/

/-- DECODE on a container with a deobfuscated buffer: everything before step 3 looks at no code. -/
theorem decodeWith_of_deobfuscate (choose : Word → Compression) {s : State} {d : List Byte}
    (hd : deobfuscate s.srcIn = .ok d) :
    decodeWith choose s =
      if s.cfg.maxInLen < s.srcIn.length then .refused .inputTooLong
      else if s.srcIn.length ≤ 20 then .next (failed s 0x01 0)
      else if checksum (d.drop 16) = le32 d 4 then finish (choose (le32 d 12)) (headerOf d) (d.drop 16) s
      else .next (failed s 0x03 0) := by
  by_cases hlong : s.cfg.maxInLen < s.srcIn.length
  · rw [if_pos hlong, decodeWith_tooLong choose hlong]
  · rw [if_neg hlong]
    obtain ⟨hshort, h⟩ | ⟨hlen, d', hd', -, hsteps⟩ := decodeWith_steps choose s (Nat.not_lt.mp hlong)
    · rw [if_pos hshort, h]
    · obtain rfl : d' = d := Except.ok.inj (hd'.symm.trans hd)
      rw [if_neg (Nat.not_le.mpr hlen)]
      obtain ⟨hne, h⟩ | ⟨hsum, h⟩ := hsteps
      · rw [if_neg hne, h]
      · rw [if_pos hsum, h]
        rfl

/-- A compression code is the DECODE whose step 3 it fixes (notes/assumptions/9.md). -/
theorem exec_compression (c : Compression) (s : State) : exec c.instr s = decodeWith (fun _ => c) s := by
  cases c <;> rfl

/-- DECODE is the code its container's header holds: both find the same buffer, and run the same step 3 on it. -/
theorem exec_decode_eq {s : State} {d : List Byte} (hd : deobfuscate s.srcIn = .ok d) :
    exec .decode s = exec (compressionOf (le32 d 12)).instr s := by
  calc exec .decode s
    _ = decodeWith compressionOf s := rfl
    _ = decodeWith (fun _ => compressionOf (le32 d 12)) s := by
      rw [decodeWith_of_deobfuscate compressionOf hd, decodeWith_of_deobfuscate _ hd]
    _ = exec (compressionOf (le32 d 12)).instr s := (exec_compression _ s).symm

section
variable {s : State} (hmax : s.srcIn.length ≤ s.cfg.maxInLen)
include hmax

/-- Step 1 (R182). -/
theorem exec_decode_of_short (hshort : s.srcIn.length ≤ 20) : exec .decode s = .next (failed s 0x01 0) := by
  obtain ⟨-, h⟩ | ⟨hlong, -⟩ := decodeWith_steps compressionOf s hmax
  · exact h
  · omega

/-- Step 2 (R183). -/
theorem exec_decode_of_sum_ne {d : List Byte} (hlen : 20 < s.srcIn.length) (hd : deobfuscate s.srcIn = .ok d)
    (hne : checksum (d.drop 16) ≠ le32 d 4) : exec .decode s = .next (failed s 0x03 0) := by
  refine (decodeWith_of_deobfuscate compressionOf hd).trans ?_
  rw [if_neg (Nat.not_lt.mpr hmax), if_neg (Nat.not_le.mpr hlen), if_neg hne]

end

section
variable {s : State} {d : List Byte} (hopens : Opens s d)
include hopens

/-- On a container steps 1 and 2 let through, a code ends as its own step 3 does. -/
theorem exec_compression_of_opens (c : Compression) (hfits : reachedLength c (headerOf d) (d.drop 16) ≤ s.cfg.outCap) :
    exec c.instr s = .next (ended (finishOutput c (headerOf d) (d.drop 16)) s) := by
  obtain ⟨hlen, hmax, hd, hsum⟩ := hopens
  rw [exec_compression, decodeWith_of_deobfuscate _ hd, if_neg (Nat.not_lt.mpr hmax), if_neg (Nat.not_le.mpr hlen),
    if_pos hsum, finish_of_fits hfits]

theorem exec_compUncompressed_of_opens (hfits : (d.drop 16).length ≤ s.cfg.outCap) :
    exec .compUncompressed s = .next (delivered s (d.drop 16)) :=
  exec_compression_of_opens hopens .uncompressed hfits

theorem exec_compRle_of_opens : exec .compRle s = .next (failed s 0x05 0) :=
  exec_compression_of_opens hopens .rle (Nat.zero_le _)

theorem exec_compUnknown_of_opens (code : Word) : exec (.compUnknown code) s = .next (failed s 0x06 0) :=
  exec_compression_of_opens hopens (.unknown code) (Nat.zero_le _)

section
variable (hfits : (le32 d 0).toNat ≤ s.cfg.outCap)
include hfits

theorem exec_compLzss_of_error {e : Err} (he : decompress (d.drop 16) (le32 d 0) = .error e) :
    exec .compLzss s = .next (failed s 0x07 e.info) := by
  have hkind : e.kind = .prematureEnd := decompressFrom_error he
  refine (exec_compression_of_opens hopens .lzss hfits).trans ?_
  rw [finishOutput, lzssOutput_of_error he, ended, hkind]
  rfl

theorem exec_compLzss_of_ok {out : List Byte} (ho : decompress (d.drop 16) (le32 d 0) = .ok out) :
    exec .compLzss s = if checksum out = le32 d 8 then .next (delivered s out) else .next (failed s 0x04 0) := by
  refine (exec_compression_of_opens hopens .lzss hfits).trans ?_
  rw [finishOutput, lzssOutput_of_ok ho, headerOf_checksumUncompressed]
  by_cases hsum : checksum out = le32 d 8
  · rw [if_pos hsum, if_pos hsum, ended]
  · rw [if_neg hsum, if_neg hsum]
    rfl

end

end

/-! ### Sealed containers (R184, R186) -/

theorem tokensBits_ne_nil {ts : List Token} (h : ts ≠ []) : tokensBits ts ≠ [] := by
  obtain ⟨t, rest, rfl⟩ := List.exists_cons_of_ne_nil h
  rw [tokensBits_cons]
  cases t <;> exact List.cons_ne_nil _ _

theorem packBits_ne_nil {bits : List Bool} (h : bits ≠ []) : packBits bits ≠ [] := by
  intro hnil
  have hprefix := isPrefix_bytesBits_packBits bits
  rw [hnil] at hprefix
  exact h (List.prefix_nil.mp hprefix)

/-- DECODE of a well-formed sealed container is the step 3 of the code it holds. -/
theorem exec_decode_sealContainer {s : State} {seed size cku code : Word} {payload : List Byte}
    (hsrc : s.srcIn = sealContainer seed (headerBytes size (checksum payload) cku code ++ payload))
    (hpayload : payload ≠ []) (hmax : payload.length + 20 ≤ s.cfg.maxInLen) :
    exec .decode s = finish (compressionOf code) ⟨size, checksum payload, cku, code⟩ payload s :=
  (decodeWith_sealContainer compressionOf hsrc hpayload hmax).trans (if_pos rfl)

end Sys2Proof.Machine

namespace Sys2Proof

open Sys2Proof.Machine Sys2Proof.Safety

/-- Settles O50: DECODE opens the sealed container, and step 3 for Uncompressed answers the payload. -/
theorem uncompressedContainerRoundTrip : Obligations.UncompressedContainerRoundTrip := by
  intro s seed unpacked cu payload hpayload hmax hcap hsrc
  exact (exec_decode_sealContainer hsrc hpayload hmax).trans (finish_of_fits (c := .uncompressed) hcap)

/-- Settles O51: DECODE opens the sealed container, and its payload decompresses to what the tokens emit. -/
theorem lzssContainerRoundTrip : Obligations.LzssContainerRoundTrip := by
  intro s seed size ts hts hsize hcap hmax hsrc
  obtain ⟨-, hdecompress, -⟩ := tokenStreamOutput ts size
  rw [exec_decode_sealContainer hsrc (packBits_ne_nil (tokensBits_ne_nil hts)) hmax,
    show compressionOf 2 = .lzss from rfl, finish_of_fits (c := .lzss) (h := ⟨size, _, _, _⟩) hcap, finishOutput,
    lzssOutput_of_ok (hdecompress hsize), if_pos rfl, ended]

/-- Settles O6: only step 3 looks at the code. -/
theorem decodeRunsHeaderCode : Obligations.DecodeRunsHeaderCode := fun _ _ => exec_decode_eq

/-- Settles O49: each code ends as its own step 3 does. -/
theorem compressionCodesComplete : Obligations.CompressionCodesComplete := by
  intro s d hopens
  refine ⟨exec_compUncompressed_of_opens hopens, exec_compRle_of_opens hopens, exec_compUnknown_of_opens hopens,
    fun hfits out hout hsum => ?_⟩
  rw [exec_compLzss_of_ok hopens hfits hout, if_pos hsum]

/-- Settles O48: a container steps 1 and 2 let through is decoded by the code its header holds. -/
theorem decodeOutcomes : Obligations.DecodeOutcomes := by
  intro s hmax
  refine ⟨exec_decode_of_short hmax, fun hlen => ?_⟩
  obtain ⟨d, hd⟩ : ∃ d, deobfuscate s.srcIn = .ok d := ⟨_, deobfuscate_ok (by omega)⟩
  refine ⟨d, hd, exec_decode_of_sum_ne hmax hlen hd, fun hsum => ?_⟩
  have hopens : Opens s d := ⟨hlen, hmax, hd, hsum⟩
  obtain ⟨-, -, -, hunknown, -⟩ := compressionCodes (le32 d 12)
  rw [exec_decode_eq hd]
  refine ⟨fun hcode hfits => ?_, fun hcode => ?_, fun hcode hfits => ?_, fun hcode => ?_⟩
  · rw [hcode]
    exact exec_compUncompressed_of_opens hopens hfits
  · rw [hcode]
    exact exec_compRle_of_opens hopens
  · rw [hcode]
    refine ⟨fun e => exec_compLzss_of_error hopens hfits, fun out hout => ?_⟩
    have hexec := exec_compLzss_of_ok hopens hfits hout
    exact ⟨fun hne => hexec.trans (if_neg hne), fun heq => hexec.trans (if_pos heq)⟩
  · rw [hunknown hcode]
    exact exec_compUnknown_of_opens hopens _

/-- Settles O52: RESULT holds the length of an output that fits 32 bits, since a container is at most 2^32 + 19 bytes long. -/
theorem decodeOutputLength : Obligations.DecodeOutputLength := by
  intro s t ht hcode
  have hmax := srcIn_le_of_exec_decode ht
  have hcfg := s.cfg.maxInLen_hi
  obtain rfl := eq_ended_of_exec_decode ht
  obtain ⟨bytes, hbytes⟩ := ok_of_ended hcode
  rw [hbytes]
  obtain ⟨d, hd, hlen, hpath⟩ := decodeOutput_ok hbytes
  have hout : le32 d 12 = 0 ∧ bytes.length = s.srcIn.length - 20
      ∨ le32 d 12 = 2 ∧ bytes.length = (le32 d 0).toNat := by
    obtain ⟨h0, rfl⟩ | ⟨h2, ho⟩ := hpath
    · exact .inl ⟨h0, by rw [List.length_drop, hlen, Nat.sub_sub]⟩
    · exact .inr ⟨h2, decompressFrom_length ho⟩
  have hfits : bytes.length < 2 ^ 32 := by
    obtain ⟨-, h⟩ | ⟨-, h⟩ := hout
    · omega
    · rw [h]; exact (le32 d 0).isLt
  exact ⟨Nat.mod_eq_of_lt hfits, d, hd, hout⟩

/-- Settles O53: a DECODE ends with the output or the error its container determines, and is framed as every instruction is. -/
theorem decodeIsPure : Obligations.DecodeIsPure := by
  refine ⟨fun s t ht herr => ?_, fun s s' t t' hsrc ht ht' => ?_, fun s t ht => ?_⟩
  · obtain rfl := eq_ended_of_exec_decode ht
    cases ho : decodeOutput s.srcIn with
    | error e => rfl
    | ok bytes =>
      rw [ho] at herr
      obtain ⟨hnotOk, -⟩ := herr
      exact absurd rfl hnotOk
  · obtain rfl := eq_ended_of_exec_decode ht
    obtain rfl := eq_ended_of_exec_decode ht'
    rw [hsrc]
    cases decodeOutput s'.srcIn <;> exact ⟨rfl, rfl, rfl, rfl⟩
  · have hrun := executed_of_exec ht
    exact ⟨⟨prng_of_executed hrun (by decide), ck_of_executed hrun (by decide),
      lz_of_executed hrun (by decide) (by decide)⟩, sameHost_of_executed hrun⟩

end Sys2Proof
end

section
/-! PROOFS. The obligations of spec/60_exceptions.md: a failing command's frame (R203) and its repetition (R208), and the
capacities the model refuses for (R213). -/

namespace Sys2Proof.Machine

open Sys2Proof Sys2Proof.Safety

/-! ### DECODE and its codes as one operation (spec/44_orchestrator.md R181) -/

theorem exists_compression {i : Instr} (h : i.encClass = .headerCode) : ∃ c : Compression, c.instr = i := by
  cases i with
  | compUncompressed => exact ⟨.uncompressed, rfl⟩
  | compRle => exact ⟨.rle, rfl⟩
  | compLzss => exact ⟨.lzss, rfl⟩
  | compUnknown code => exact ⟨.unknown code, rfl⟩
  | _ => cases h

theorem exec_of_runsDecode {i : Instr} (hi : RunsDecode i) : ∃ choose, exec i = decodeWith choose := by
  obtain rfl | hcode := hi
  · exact ⟨compressionOf, rfl⟩
  · obtain ⟨c, rfl⟩ := exists_compression hcode
    exact ⟨fun _ => c, funext (exec_compression c)⟩

/-! ### A failing command (R203) -/

/-- A failing command has raised its error on the state it found, with OUT emptied if it is a DECODE. -/
theorem raised_of_failing {s t : State} {i : Instr} (h : Executed s i t) (herr : IsErrorCode t.statusCode) :
    ∃ kind info, t = raiseErr kind info s ∨ RunsDecode i ∧ t = raiseErr kind info (setOut [] s) := by
  obtain ⟨hnotOk, hnotEnd⟩ := herr
  cases h with
  | notSeeded => exact ⟨_, _, .inl rfl⟩
  | endedEarly => exact ⟨_, _, .inl rfl⟩
  | failed hi => exact ⟨_, _, .inr ⟨hi, rfl⟩⟩
  | sizeReached => exact absurd rfl hnotEnd
  | seeded | drew | folded | sumRead | bound | pulled | delivered => exact absurd rfl hnotOk

theorem runCommand_of_error {w : Word} {r : Reject} (h : decodeCommand w = .error r) (s : State) :
    runCommand w s = .next (raiseIllegal s) := by
  rw [runCommand, h]

/-! ### No command reads what the last one reported (R208) -/

section
variable (code : BitVec 8) (value info : Word) (bytes : List Byte) (s : State)

theorem drawAnd_report (f : Word → Word) : drawAnd f (report code value info s) = drawAnd f s := by
  unfold drawAnd ifSeeded
  rw [report_prng]
  split <;> rfl

theorem pullWith_report (stepUnit : Lzss → Option (Byte × Lzss)) :
    pullWith stepUnit (report code value info s) = pullWith stepUnit s := by
  unfold pullWith
  rw [report_lz]
  split
  · rfl
  · split <;> rfl

/-- DECODE and its codes read SRC_IN and the parameters; a state that ends alike decodes alike. -/
theorem decodeWith_congr {s s' : State} (hcfg : s'.cfg = s.cfg) (hsrc : s'.srcIn = s.srcIn)
    (hended : ∀ o, ended o s' = ended o s) (choose : Word → Compression) : decodeWith choose s' = decodeWith choose s := by
  unfold decodeWith
  rw [operandBytes_eq, operandBytes_eq, hcfg, hsrc]
  split
  · rfl
  · split
    · exact congrArg Host.Outcome.next (hended (.error _))
    · rw [finish_eq, finish_eq, hcfg, hended]

theorem decodeWith_report (choose : Word → Compression) :
    decodeWith choose (report code value info s) = decodeWith choose s :=
  decodeWith_congr rfl rfl (fun o => by cases o <;> rfl) choose

theorem decodeWith_setOut (choose : Word → Compression) : decodeWith choose (setOut bytes s) = decodeWith choose s :=
  decodeWith_congr rfl rfl (fun o => by cases o <;> rfl) choose

/-- Every command reads its operands and its unit alone, and writes the three report registers itself. -/
theorem exec_report (i : Instr) : exec i (report code value info s) = exec i s := by
  by_cases hdecode : RunsDecode i
  · obtain ⟨choose, hexec⟩ := exec_of_runsDecode hdecode
    rw [hexec, decodeWith_report]
  · cases i with
    | prngSeed | ckClear | ckByte | ckWord | ckRead | lzInit => rfl
    | prngNext | deobWord | deobByte => exact congrArg Host.Outcome.next (drawAnd_report ..)
    | lzPull | lit | copy => exact congrArg Host.Outcome.next (pullWith_report ..)
    | decode => exact absurd (.inl rfl) hdecode
    | compUncompressed | compRle | compLzss | compUnknown => exact absurd (.inr rfl) hdecode

end

/-! ### What is refused (R213) -/

theorem length_payload_of_opens {s : State} {d : List Byte} (h : Opens s d) : (d.drop 16).length = s.srcIn.length - 20 := by
  obtain ⟨hlen, -, hd, -⟩ := h
  obtain rfl := Except.ok.inj ((deobfuscate_ok (by omega)).symm.trans hd)
  rw [List.length_drop, deobBytes_length, List.length_drop, Nat.sub_sub]

theorem decodeWith_ne_fault (choose : Word → Compression) (s : State) (f : Fault) : decodeWith choose s ≠ .fault f := by
  obtain ⟨-, h⟩ | h | ⟨_, h⟩ | ⟨_, h⟩ := decodeWith_cases choose s <;> rw [h] <;> nofun

/-- DECODE and its codes are refused for too long an input, and, once steps 1 and 2 let the container through, for too long
an output. -/
theorem decodeWith_refused_iff {choose : Word → Compression} {s : State} {r : Refusal} :
    decodeWith choose s = .refused r ↔
      r = .inputTooLong ∧ s.cfg.maxInLen < s.srcIn.length
      ∨ r = .outputTooLong ∧ ∃ d, Opens s d
        ∧ s.cfg.outCap < reachedLength (choose (le32 d 12)) (headerOf d) (d.drop 16) := by
  constructor
  · intro h
    by_cases hlong : s.cfg.maxInLen < s.srcIn.length
    · rw [decodeWith_tooLong choose hlong] at h
      cases h
      exact .inl ⟨rfl, hlong⟩
    · have hmax := Nat.not_lt.mp hlong
      obtain ⟨-, heq⟩ | ⟨hlen, d, hd, -, ⟨-, heq⟩ | ⟨hsum, heq⟩⟩ := decodeWith_steps choose s hmax <;>
        rw [heq] at h
      · cases h
      · cases h
      · rw [finish_eq] at h
        split at h
        · next hcap =>
          cases h
          exact .inr ⟨rfl, d, ⟨hlen, hmax, hd, hsum⟩, hcap⟩
        · cases h
  · rintro (⟨rfl, hlong⟩ | ⟨rfl, d, ⟨hlen, hmax, hd, hsum⟩, hcap⟩)
    · exact decodeWith_tooLong choose hlong
    · rw [decodeWith_of_deobfuscate choose hd, if_neg (Nat.not_lt.mpr hmax), if_neg (Nat.not_le.mpr hlen), if_pos hsum,
        finish_eq, if_pos hcap]

section
variable {choose : Word → Compression} {s : State} {r : Refusal}

theorem decodeWith_refusal (h : decodeWith choose s = .refused r) : r = .inputTooLong ∨ r = .outputTooLong :=
  (decodeWith_refused_iff.mp h).imp And.left And.left

theorem decodeWith_refused_inputTooLong_iff :
    decodeWith choose s = .refused .inputTooLong ↔ s.cfg.maxInLen < s.srcIn.length := by
  simp [decodeWith_refused_iff]

theorem decodeWith_refused_outputTooLong_iff : decodeWith choose s = .refused .outputTooLong ↔
    ∃ d, Opens s d ∧ s.cfg.outCap < reachedLength (choose (le32 d 12)) (headerOf d) (d.drop 16) := by
  simp [decodeWith_refused_iff]

end

/-- A code reaches too long an output by its own step 3 (R184 to R187). -/
theorem exec_compression_refused_outputTooLong_iff {c : Compression} {s : State} :
    exec c.instr s = .refused .outputTooLong ↔
      ∃ d, Opens s d ∧ s.cfg.outCap < reachedLength c (headerOf d) (d.drop 16) := by
  rw [exec_compression, decodeWith_refused_outputTooLong_iff]

theorem exec_compression_ne_outputTooLong {c : Compression}
    (hzero : ∀ d, reachedLength c (headerOf d) (d.drop 16) = 0) (s : State) : exec c.instr s ≠ .refused .outputTooLong := by
  intro h
  obtain ⟨d, -, hcap⟩ := exec_compression_refused_outputTooLong_iff.mp h
  rw [hzero] at hcap
  exact Nat.not_lt_zero _ hcap

/-- The output DECODE reaches, by the code its container's header holds (R184 to R187). -/
theorem lt_reachedLength_compressionOf {cap : Nat} {d : List Byte} :
    cap < reachedLength (compressionOf (le32 d 12)) (headerOf d) (d.drop 16) ↔
      le32 d 12 = 0 ∧ cap < (d.drop 16).length ∨ le32 d 12 = 2 ∧ cap < (le32 d 0).toNat := by
  obtain ⟨h, hc⟩ | ⟨h, hc⟩ | ⟨h, hc⟩ | ⟨⟨h0, -, h2⟩, hc⟩ := compressionOf_cases (le32 d 12) <;> rw [hc]
  · simp [h, reachedLength]
  · simp [h, reachedLength]
  · simp [h, reachedLength, headerOf]
  · simp only [reachedLength, h0, h2, false_and, or_self, Nat.not_lt_zero]

theorem execLzInit_refused_iff {s : State} {r : Refusal} :
    execLzInit s = .refused r ↔ r = .inputTooLong ∧ s.cfg.maxInLen < s.srcIn.length := by
  rw [execLzInit, operandBytes_eq]
  split
  · next hlong => simp [hlong, eq_comm]
  · next hfits => simp [hfits]

theorem execLzInit_ne_fault (s : State) (f : Fault) : execLzInit s ≠ .fault f := by
  rw [execLzInit]
  split <;> nofun

/-- Every instruction without an input or an output to hold against a capacity has a next state. -/
theorem exists_exec_eq_next {i : Instr} (hinit : i ≠ .lzInit) (hdecode : ¬ RunsDecode i) (s : State) :
    ∃ t, exec i s = .next t := by
  cases i with
  | lzInit => exact absurd rfl hinit
  | decode => exact absurd (.inl rfl) hdecode
  | compUncompressed | compRle | compLzss | compUnknown => exact absurd (.inr rfl) hdecode
  | _ => exact ⟨_, rfl⟩

theorem exec_ne_fault (i : Instr) (s : State) (f : Fault) : exec i s ≠ .fault f := by
  by_cases hdecode : RunsDecode i
  · obtain ⟨choose, hexec⟩ := exec_of_runsDecode hdecode
    rw [hexec]
    exact decodeWith_ne_fault choose s f
  · by_cases hinit : i = .lzInit
    · rw [hinit]
      exact execLzInit_ne_fault s f
    · obtain ⟨t, ht⟩ := exists_exec_eq_next hinit hdecode s
      rw [ht]
      nofun

end Sys2Proof.Machine

namespace Sys2Proof

open Sys2Proof.Machine Sys2Proof.Safety

/-- Settles O54: a command raises its error on the state it found, and so does an illegal word; OUT is DECODE's alone. -/
theorem failingCommandChangesNoUnit : Obligations.FailingCommandChangesNoUnit := by
  refine ⟨fun i s t h herr => ?_, fun w r s hw => ?_⟩
  · have hrun := executed_of_exec h
    have hraised : SameUnits s t ∧ t.result = 0 := by
      obtain ⟨kind, info, rfl | ⟨-, rfl⟩⟩ := raised_of_failing hrun herr <;> exact ⟨⟨rfl, rfl, rfl⟩, rfl⟩
    obtain ⟨hunits, hresult⟩ := hraised
    exact ⟨hunits, sameHost_of_executed hrun, hresult, out_of_executed hrun⟩
  · exact ⟨raiseIllegal s, runCommand_of_error hw s, ⟨rfl, rfl, rfl⟩, ⟨rfl, rfl, rfl, rfl, rfl⟩, rfl⟩

/-- Settles O55: the failure has changed only the report registers, and OUT under DECODE, which the command does not read. -/
theorem failingCommandRepeats : Obligations.FailingCommandRepeats := by
  intro i s t h herr
  suffices hsame : exec i t = exec i s from hsame.trans h
  obtain ⟨kind, info, rfl | ⟨hi, rfl⟩⟩ := raised_of_failing (executed_of_exec h) herr
  · exact exec_report ..
  · obtain ⟨choose, hexec⟩ := exec_of_runsDecode hi
    calc exec i (raiseErr kind info (setOut [] s))
      _ = exec i (setOut [] s) := exec_report ..
      _ = exec i s := by rw [hexec, decodeWith_setOut]

/-- Settles O59: every other instruction has a next state, and DECODE is refused for the output of the code it finds. -/
theorem capacityRefusals : Obligations.CapacityRefusals := by
  refine ⟨exec_ne_fault, fun i s r hclass h => ?_, fun _ _ => execLzInit_refused_iff, fun _ _ => decodeWith_refusal,
    fun _ => decodeWith_refused_inputTooLong_iff, fun s => ?_⟩
  · by_contra hother
    obtain ⟨hinit, hdecode⟩ := not_or.mp hother
    obtain ⟨t, ht⟩ := exists_exec_eq_next hinit (not_or.mpr ⟨hdecode, hclass⟩) s
    rw [ht] at h
    cases h
  · refine decodeWith_refused_outputTooLong_iff.trans (exists_congr fun d => and_congr_right fun hopens => ?_)
    rw [lt_reachedLength_compressionOf, length_payload_of_opens hopens]

/-- Settles O60: a code is the DECODE whose step 3 it fixes, and RLE's and an unknown code's have no output. -/
theorem codeRefusals : Obligations.CodeRefusals := by
  intro s
  refine ⟨fun i r hcode h => ?_, fun i hcode => ?_, ?_, ?_, ?_, fun code => ?_⟩
  · obtain ⟨choose, hexec⟩ := exec_of_runsDecode (.inr hcode)
    rw [hexec] at h
    exact decodeWith_refusal h
  · obtain ⟨choose, hexec⟩ := exec_of_runsDecode (.inr hcode)
    rw [hexec]
    exact decodeWith_refused_inputTooLong_iff
  · refine (exec_compression_refused_outputTooLong_iff (c := .uncompressed)).trans
      (exists_congr fun d => and_congr_right fun hopens => ?_)
    rw [reachedLength, length_payload_of_opens hopens]
  · exact exec_compression_refused_outputTooLong_iff (c := .lzss)
  · exact exec_compression_ne_outputTooLong (c := .rle) (fun _ => rfl) s
  · exact exec_compression_ne_outputTooLong (c := .unknown code) (fun _ => rfl) s

end Sys2Proof
end

section
/-! PROOFS. Reset (spec/70_reset_and_hazards.md R230): what it gives each register, and that nothing else clears `seeded`. -/

namespace Sys2Proof.Machine

open Sys2Proof Sys2Proof.Safety

/-! ### The reset state -/

theorem atReset_resetWith (cfg : Config) : AtReset (State.resetWith cfg) :=
  ⟨rfl, rfl, rfl, rfl, rfl, rfl, rfl, fun _ => rfl, rfl, rfl, rfl, rfl, rfl, rfl, rfl, rfl, rfl, rfl, rfl⟩

/-- What `resetBlock` keeps (the parameters and what the host holds) is none of R230's registers. -/
theorem atReset_resetBlock (s : State) : AtReset (resetBlock s) := atReset_resetWith s.cfg

theorem step_of_host_reset {s : State} {rest : List HostEvent} (h : s.host = .reset :: rest) :
    step s = .next (resetBlock { s with host := rest }) := step_of_host_cons h

/-- The checksum unit after reset is as CK_CLEAR leaves it (R230). -/
theorem ckClear_reset : ckClear Checksum.reset = Checksum.reset := rfl

/-- The decompressor after reset is as `LZ_INIT 0, []` leaves it (R230). -/
theorem freshLzss_nil_zero : freshLzss [] 0 = Lzss.reset := rfl

/-- An empty SRC_IN is within every `MAX_IN_LEN`, so R213 refuses no LZ_INIT of it. -/
theorem exec_lzInit_of_srcIn_nil {s : State} (h : s.srcIn = []) :
    exec .lzInit s = .next (complete 0 (setLzss (freshLzss [] s.dataIn) s)) := by
  have hfits : ¬ s.cfg.maxInLen < (operandBytes s).length := by simp [h]
  have hexec : exec .lzInit s = .next (complete 0 (setLzss (freshLzss s.srcIn s.dataIn) s)) := if_neg hfits
  rw [hexec, h]

/-! ### What keeps `seeded` set (R23) -/

/-- PRNG_SEED sets `seeded`, and every other instruction leaves it alone. -/
theorem seeded_of_exec {i : Instr} {s t : State} (h : exec i s = .next t) (hs : s.prng.seeded = true) :
    t.prng.seeded = true := by
  by_cases hi : i = .prngSeed
  · subst hi
    cases h
    exact constructPrng_seeded _
  · exact (seeded_of_executed (executed_of_exec h) hi).trans hs

/-- Of the host's accesses only a CMD word and reset reach the PRNG. -/
theorem seeded_of_serve {e : HostEvent} {s t : State} (h : serve e s = .next t) (he : e ≠ .reset)
    (hs : s.prng.seeded = true) : t.prng.seeded = true := by
  obtain ⟨w, i, -, -, heq⟩ | ⟨w, r, -, -, heq⟩ | ⟨offset, v, r, -, -, -, heq⟩ | ⟨offset, r, -, -, heq⟩ |
    ⟨bytes, -, heq⟩ | ⟨hreset, -⟩ | ⟨offset, -, heq⟩ := serve_cases e s
  · exact seeded_of_exec (heq.symm.trans h) hs
  · cases heq.symm.trans h; exact hs
  · cases heq.symm.trans h; cases r <;> exact hs
  · cases heq.symm.trans h; exact hs
  · cases heq.symm.trans h; exact hs
  · exact absurd hreset he
  · cases heq.symm.trans h

end Sys2Proof.Machine

namespace Sys2Proof

open Sys2Proof.Machine Sys2Proof.Safety

/-- Settles O1: every unit is replaced by its reset state, which CK_CLEAR and `LZ_INIT 0, []` reproduce; a step that leaves
`seeded` clear has served an access, and it was the reset. -/
theorem resetValues : Obligations.ResetValues := by
  refine ⟨atReset_resetWith, fun s rest hhost => ?_, fun s t hstep hset hclear => ?_⟩
  · refine ⟨_, step_of_host_reset hhost, atReset_resetBlock _, fun i hi => ?_, ?_, ?_⟩
    · obtain ⟨-, -, -, -, hguard⟩ := seededGuardsTheTable
      exact ⟨_, hguard i hi _ rfl, rfl⟩
    · exact ⟨_, rfl, ckClear_reset⟩
    · exact ⟨_, exec_lzInit_of_srcIn_nil rfl, freshLzss_nil_zero⟩
  · obtain ⟨-, heq⟩ | ⟨e, rest, hhost, heq⟩ := step_cases s
    · cases heq.symm.trans hstep
      exact absurd (hset.symm.trans hclear) (by decide)
    · by_cases he : e = .reset
      · exact ⟨rest, he ▸ hhost⟩
      · have hkept : t.prng.seeded = true := seeded_of_serve (heq.symm.trans hstep) he hset
        exact absurd (hkept.symm.trans hclear) (by decide)

end Sys2Proof
end
